-- ==== Sys2Proof/Word.lean ====
section
/-! DEFINITION. The fixed widths of the core's values (00_scope.md R5, R7): u8, u32 and u64, all unsigned. -/

namespace Sys2Proof

/-- A u8: a message byte, a cell of BUF, a command's DATA field (R7, R59). -/
abbrev Byte := BitVec 8

/-- A u32: a digest word, a schedule word, a command word (R5, R7, R58). -/
abbrev Word := BitVec 32

/-- A u64: the bit counter, a packed response (R7, R22, R66). -/
abbrev DWord := BitVec 64

end Sys2Proof
end

