-- ==== Sys2Proof/Syntax.lean ====
section
/-! DEFINITION. The commands, one constructor per row of spec/opcode_table.json (30_encoding.md R60), with the
operand fields of R59 and R72: a raw byte, a 3-bit count, a 3-bit word index. -/

namespace Sys2Proof

/-- A command of the core (30_encoding.md R60). -/
inductive Instr where
  /-- RESET, the source's `reset()` (R61, R78). -/
  | reset
  /-- FEED_BYTE: one byte of the source's `feed(bytes)` (R62, R81). -/
  | feedByte (b : Byte)
  /-- FEED_BITS: the source's `feedExtraBits(byte, n)` (R63, R85). n = 0 is well formed and faults when executed. -/
  | feedBits (b : Byte) (n : BitVec 3)
  /-- FINALIZE, the source's `finalize()` (R64, R91). -/
  | finalize
  /-- READ_DIGEST: one word of the source's `digest()` (R65, R88). Only k = 0..4 is well formed (R69). -/
  | readDigest (k : BitVec 3)
deriving DecidableEq, Repr

end Sys2Proof
end

