-- ==== Sys2Proof/WellFormed.lean ====
section
/-! DEFINITION. Which commands have an encoding: the one operand constraint of spec/opcode_table.json is
READ_DIGEST's `k <= 4` (30_encoding.md R65, R69). FEED_BITS with n = 0 is well formed (R63). -/

namespace Sys2Proof

/-- The command has an encoding (30_encoding.md R60 to R65, R69). -/
def Instr.wellFormed : Instr → Bool
  | .reset => true
  | .feedByte _ => true
  | .feedBits _ _ => true
  | .finalize => true
  | .readDigest k => k ≤ 4#3

end Sys2Proof
end

