-- ==== Sys2Proof/Decode.lean ====
section
/-! DEFINITION. The decoder, total on every 32-bit word (30_encoding.md R67 to R71), the encoder (R61 to R65) and
`decodeTableWord`, the host's question of it. -/

namespace Sys2Proof

/-- Why a word is ILLEGAL. The core makes no difference between them: each raises ILLEGAL_COMMAND (R67). -/
inductive Illegal where
  /-- OP = 0x0 or 0x6..0xF (R68). -/
  | reservedOpcode
  /-- A legal opcode with a nonzero unused field (R69). -/
  | reservedField
  /-- READ_DIGEST with index 5, 6 or 7 (R69). -/
  | digestIndex
deriving DecidableEq, Repr

/-- What a word decodes to: a command or ILLEGAL (R67). -/
abbrev Decoded := Except Illegal Instr

/-- OP = w[3:0] (R58, R59). -/
def opField (w : Word) : BitVec 4 := w.extractLsb' 0 4

/-- ARG = w[6:4] (R58, R59). -/
def argField (w : Word) : BitVec 3 := w.extractLsb' 4 3

/-- RSV0 = w[7] (R58). -/
def rsv0Field (w : Word) : BitVec 1 := w.extractLsb' 7 1

/-- DATA = w[15:8], raw (R58, R59). -/
def dataField (w : Word) : Byte := w.extractLsb' 8 8

/-- RSV1 = w[31:16] (R58). -/
def rsv1Field (w : Word) : BitVec 16 := w.extractLsb' 16 16

/-- Both reserved fields are zero (R58, R69). -/
def reservedClear (w : Word) : Bool := rsv0Field w == 0#1 && rsv1Field w == 0#16

/-- The decoder (R67). -/
def decode (w : Word) : Decoded :=
  if opField w = 0x1#4 then
    if reservedClear w && argField w == 0#3 && dataField w == 0#8 then .ok .reset else .error .reservedField
  else if opField w = 0x2#4 then
    if reservedClear w && argField w == 0#3 then .ok (.feedByte (dataField w)) else .error .reservedField
  else if opField w = 0x3#4 then
    if reservedClear w then .ok (.feedBits (dataField w) (argField w)) else .error .reservedField
  else if opField w = 0x4#4 then
    if reservedClear w && argField w == 0#3 && dataField w == 0#8 then .ok .finalize else .error .reservedField
  else if opField w = 0x5#4 then
    if reservedClear w && dataField w == 0#8 then
      if argField w ≤ 4#3 then .ok (.readDigest (argField w)) else .error .digestIndex
    else .error .reservedField
  else .error .reservedOpcode

/-- A CMD32 word laid out from its fields: DATA in 15:8, ARG in 6:4, OP in 3:0, the reserved bits 0 (R58). -/
def cmd32 (data : Byte) (arg : BitVec 3) (op : BitVec 4) : Word :=
  (data.setWidth 32 <<< 8) ||| (arg.setWidth 32 <<< 4) ||| op.setWidth 32

/-- The encoder (R61 to R65): the one word of a well-formed command (R70). -/
def encode : Instr → Word
  | .reset => cmd32 0x00#8 0#3 0x1#4
  | .feedByte b => cmd32 b 0#3 0x2#4
  | .feedBits b n => cmd32 b n 0x3#4
  | .finalize => cmd32 0x00#8 0#3 0x4#4
  | .readDigest k => cmd32 0x00#8 k 0x5#4

/-- The low nbits bits of w, as the table numbers them. -/
def tableBits (nbits w : Nat) : Nat := w % 2 ^ nbits

/-- What the decoder reads from a table row's word: a command is exactly one 32-bit word (R71), whose bits the
table numbers as R8 does, so the word is the number itself. A number that needs more than 32 bits is no command. -/
def decodeTableWord (nbits w : Nat) : Option Instr :=
  if tableBits nbits w < 2 ^ 32 then
    match decode (BitVec.ofNat 32 (tableBits nbits w)) with
    | .ok i => some i
    | .error _ => none
  else none

end Sys2Proof
end

