-- ==== Sys2Proof/Config.lean ====
section
/-! DEFINITION. What an implementation fixes (00_scope.md R6), what the host's assembler fixes, and the free values: the values the spec leaves
unspecified while the machine goes on. Every one is opaque, with no body: no proof can see a value of it, so
every claim holds for all of them. -/

namespace Sys2Proof

/-- The compressor's layouts (R6 COMPRESS_ARCH, R118). -/
inductive CompressArch where
  /-- One round per step, a round counter and a 16-word window. -/
  | iterative
  /-- 80 round stages, each with its own working registers and schedule window. -/
  | pipelined
  /-- The 80 rounds as one combinational path. -/
  | unrolled
deriving DecidableEq, Repr, Inhabited

/-- COMPRESS_ARCH (R6, D16): which layout the chip has. No result depends on it (R118). -/
opaque Config.compressArch : CompressArch

/-- COMPRESS_LATENCY (R6, D17): any number of cycles. The model has no time (R155), so nothing reads it. -/
opaque Config.compressLatency : Nat

/-- CMD_LATENCY (R6, D17), per opcode: any number of cycles. The model has no time (R155), so nothing reads it. -/
opaque Config.cmdLatency : BitVec 4 → Nat

/-- How many cores a platform has beyond the first (R6 N_INSTANCES is 1 or more). -/
opaque Config.extraInstances : Nat

/-- N_INSTANCES (R6, D24): 1 or more. -/
def Config.nInstances : Nat := Config.extraInstances + 1

/-- How the host's assembler reads a `hash` line of numbers only, two or more of them: whether the last two are the tail
`<xbyte>, <n>` or message bytes. R76 does not say (log entry 23). -/
opaque Config.hashEndsInTail : List Nat → Bool

/-- FREE VALUE: the 64 cells of BUF where the spec calls them unspecified: after a full-buffer compression (R33),
after FINALIZE (R37) and after a reset that abandons a command (R142). The argument numbers the draw. -/
opaque Config.staleBuf : Nat → Vector Byte 64

/-- FREE VALUE: P after FINALIZE (R37). The argument numbers the draw. -/
opaque Config.staleP : Nat → Fin 64

/-- FREE VALUE: NX after FINALIZE (R37). The argument numbers the draw. -/
opaque Config.staleNX : Nat → Fin 8

end Sys2Proof
end

