-- ==== Sys2Proof/Machine/State.lean ====
section
/-! DEFINITION. The state of one core (10_state.md R38), with its response port (30_encoding.md R66), the fault log
(10_state.md R39) and what the host still presents (30_encoding.md R57; 70_reset_and_hazards.md R141), as plain data;
and the state right after reset (10_state.md R36). -/

namespace Sys2Proof.Machine

/-- The digest state H[0..4], five u32 registers (R17). -/
abbrev Digest := Vector Word 5

/-- The IV, the reset constants of the digest state (R18). -/
def iv : Digest :=
  #v[0x67452301, 0xEFCDAB89, 0x98BADCFE, 0x10325476, 0xC3D2E1F0]

/-- The pending-block buffer BUF[0..63], and a compression's 64-byte block (R19, R30). -/
abbrev Buffer := Vector Byte 64

/-- PHASE (R23). The binary value 0b11 is never held. -/
inductive Phase where
  /-- Accepting full-byte input. -/
  | ready
  /-- A sub-byte tail has been supplied. -/
  | awaitingPadding
  /-- Padding applied, the digest readable. -/
  | finalized
deriving DecidableEq, Repr

/-- The fault causes, the values of ERR_CAUSE and RSP.CAUSE (60_exceptions.md R121). Codes 0x8..0xF are never produced. -/
inductive Cause where
  /-- NONE: no fault. -/
  | none
  /-- ILLEGAL_COMMAND: an encoding the core does not define. -/
  | illegalCommand
  /-- FEED_PHASE: FEED_BYTE outside Ready. -/
  | feedPhase
  /-- BITS_PHASE: FEED_BITS outside Ready. -/
  | bitsPhase
  /-- BITS_RANGE: FEED_BITS with n = 0. -/
  | bitsRange
  /-- FINALIZE_PHASE: FINALIZE in Finalized. -/
  | finalizePhase
  /-- DIGEST_PHASE: READ_DIGEST outside Finalized. -/
  | digestPhase
  /-- LENGTH_OVERFLOW: the bit counter would exceed 2^64 - 1. -/
  | lengthOverflow
deriving DecidableEq, Repr

/-- STATUS of a response (30_encoding.md R66). -/
inductive Status where
  | ok
  | fault
deriving DecidableEq, Repr

/-- A response RSP = (STATUS, CAUSE, RDATA) (30_encoding.md R66). -/
structure Response where
  status : Status
  cause : Cause
  rdata : Word
deriving DecidableEq, Repr

/-- What the host and the platform do to the core, one at a time (30_encoding.md R57; 70_reset_and_hazards.md R141 to R143). -/
inductive HostEvent where
  /-- The command word w on the command port (R57). -/
  | command (w : Word)
  /-- The reset input, while no command is presented (R141). -/
  | resetInput
  /-- The reset input together with the arrival of the command word w: the command is not performed (R142). -/
  | resetWith (w : Word)
  /-- The reset input while the command word w is in progress: the command is abandoned (R142). -/
  | resetDuring (w : Word)
  /-- Power-up, which a model treats as the reset input (R139, R143). -/
  | powerUp
deriving DecidableEq, Repr

/-- The state of one core instance. -/
structure State where
  /-- H[0..4], the digest state (R17). -/
  h : Digest
  /-- BUF[0..63], the pending-block buffer (R19). -/
  buf : Buffer
  /-- P, the count of complete pending bytes, 0..63 (R20). -/
  p : Fin 64
  /-- NX, the count of meaningful bits in the tail byte, 0..7 (R21). -/
  nx : Fin 8
  /-- BITCNT, the message bits absorbed (R22). -/
  bitcnt : DWord
  /-- PHASE (R23). -/
  phase : Phase
  /-- ERR, the fault latch (R24). -/
  err : Bool
  /-- ERR_CAUSE, the stored cause (R24, R121). -/
  errCause : Cause
  /-- The response port: the last response, none where the last event gave none (30_encoding.md R66, R141). -/
  rsp : Option Response
  /-- The fault log: the cause of the run's first fault; nothing clears it (R39). -/
  faultLog : Option Cause
  /-- The host: its events still to come, the next one first (R15, R57; log entry 2). -/
  pending : List HostEvent
  /-- The MODEL'S OWN: how many free values have been drawn (log entry 10). -/
  draws : Nat
deriving DecidableEq, Repr

/-- Why a step ends in a fault: nothing does. Every misuse the spec names is a fault ENTRY of the core, whose effect
the spec describes (60_exceptions.md R124), so it is a next state; there is no other error (R123). So this type has
no value. Safe: no run is cut off (log entry 27). -/
inductive Fault where
deriving DecidableEq, Repr

/-- Why a step is refused. -/
inductive Refusal where
  /-- A command with no meaning yet, raised by an arm of exec. Safe. No arm raises it: all five commands have their meaning. -/
  | notModelled (mnemonic : String)
deriving DecidableEq, Repr

/-- The state right after the reset input, before any event (R36, R141, R146). BUF, which the spec leaves unspecified,
is zero (DESIGN CHOICE, log entry 5). -/
def State.reset : State :=
  { h := iv
    buf := Vector.replicate 64 0#8
    p := 0
    nx := 0
    bitcnt := 0#64
    phase := .ready
    err := false
    errCause := .none
    rsp := Option.none
    faultLog := Option.none
    pending := []
    draws := 0 }

end Sys2Proof.Machine
end

