-- ==== Sys2Proof/Machine/Ops.lean ====
section
/-! DEFINITION. The named operations over the state: operators on words (00_scope.md R10, R11), reads and writes of
BUF (R12), responding (30_encoding.md R66), TAKING A FAULT (60_exceptions.md R124), the latch check (R126), the
return from a fault, which is reset (R127; 40_accumulator.md R78), and the draws of free values. -/

namespace Sys2Proof.Machine

/-- What a meaning answers. -/
abbrev Result := Host.Outcome State Fault Refusal

/-! ## Words -/

/-- rotl_n(x) for 0 < n < 32 (R10). -/
def rotl (n : Nat) (x : Word) : Word := (x <<< n) ||| (x >>> (32 - n))

/-- BE32(b0, b1, b2, b3) = b0 b1 b2 b3 joined, b0 most significant (R11). -/
def be32 (b0 b1 b2 b3 : Byte) : Word := b0 ++ b1 ++ b2 ++ b3

/-- BE64(n): the 8 bytes of n, most significant first (R11, R43). -/
def be64 (n : DWord) : List Byte :=
  [n.extractLsb' 56 8, n.extractLsb' 48 8, n.extractLsb' 40 8, n.extractLsb' 32 8,
   n.extractLsb' 24 8, n.extractLsb' 16 8, n.extractLsb' 8 8, n.extractLsb' 0 8]

/-- bytes32(w): the 4 bytes of w, most significant first (R11, R44). -/
def bytes32 (w : Word) : List Byte :=
  [w.extractLsb' 24 8, w.extractLsb' 16 8, w.extractLsb' 8 8, w.extractLsb' 0 8]

/-- The 20-byte digest: the five words in order, each most significant byte first (R44, R90). -/
def digestBytes (d : Digest) : List Byte :=
  bytes32 d[0] ++ bytes32 d[1] ++ bytes32 d[2] ++ bytes32 d[3] ++ bytes32 d[4]

/-! ## BUF -/

/-- BUF with every cell 0x00. -/
def zeroBuf : Buffer := Vector.replicate 64 0#8

/-- MemRead(i, n): BUF[i], ..., BUF[i+n-1] (R12). -/
def memRead (buf : Buffer) (i n : Nat) : List Byte := (buf.toList.drop i).take n

/-- MemWrite(i, n, s) with n the length of s: s goes to BUF[i..i+n-1] (R12). -/
def memWrite (i : Nat) (s : List Byte) (buf : Buffer) : Buffer :=
  Vector.ofFn fun k : Fin 64 => if i ≤ k.val then s.getD (k.val - i) buf[k] else buf[k]

/-- `for k in i+1 .. 63: BUF[k] <- 0x00` (R91, R94). -/
def zeroAfter (i : Fin 64) (buf : Buffer) : Buffer :=
  Vector.ofFn fun k : Fin 64 => if i < k then 0#8 else buf[k]

/-- All 64 cells of BUF are written at once. -/
def State.withBuf (buf : Buffer) (s : State) : State := { s with buf := buf }

/-- All five words of H are written at once (R120). -/
def State.withH (h : Digest) (s : State) : State := { s with h := h }

/-- A compression's input block: MemRead(0, 64) of BUF when the compression starts (R30). -/
def State.block (s : State) : Buffer := s.buf

/-! ## Responses and faults -/

/-- The state with RSP <- (0, 0, rdata) (R66). -/
def State.responded (rdata : Word) (s : State) : State :=
  { s with rsp := some { status := .ok, cause := .none, rdata := rdata } }

/-- `respond(rdata)`: the command completes with STATUS OK (R12, R66). -/
def respond (rdata : Word) (s : State) : Result := .next (s.responded rdata)

/-- The cause a fault reports: the stored one while ERR = 1, else the new one (R124, R128). -/
def State.reported (cause : Cause) (s : State) : Cause := if s.err then s.errCause else cause

/-- What a fault leaves (R124): the latch set with the first cause, RSP <- (1, ERR_CAUSE, 0), nothing else of the core
changed; and the run's first fault in the fault log (R39). -/
def State.faulted (cause : Cause) (s : State) : State :=
  { s with
    err := true
    errCause := s.reported cause
    rsp := some { status := .fault, cause := s.reported cause, rdata := 0#32 }
    faultLog := some (s.faultLog.getD (s.reported cause)) }

/-- TAKING A FAULT: `raise Fault(cause)` (R124). It ends the command with a next state, as R124 describes it. -/
def raiseFault (cause : Cause) (s : State) : Result := .next (s.faulted cause)

/-- `require c else raise Fault(cause)`, then the rest of the command (R13). -/
def requireElse (c : Prop) [Decidable c] (cause : Cause) (s : State) (rest : Result) : Result :=
  if c then rest else raiseFault cause s

/-- The latch check, first for every command but RESET: while ERR = 1 the command is rejected with the stored cause
(R77, R126). -/
def unlessLatched (s : State) (rest : Result) : Result :=
  if s.err then raiseFault s.errCause s else rest

/-- A word that decodes to ILLEGAL: the latch check, then ILLEGAL_COMMAND (R67, R77, R125). -/
def illegalWord (s : State) : Result := unlessLatched s (raiseFault .illegalCommand s)

/-! ## Reset -/

/-- The writes of RESET, which also leave a fault (R78, R127): H, BITCNT, P, NX, PHASE, ERR, ERR_CAUSE. BUF is not
written, and the fault log keeps what it holds (R39). -/
def State.toReset (s : State) : State :=
  { s with
    h := iv
    bitcnt := 0#64
    p := 0
    nx := 0
    phase := .ready
    err := false
    errCause := .none }

/-- No response on the port: the reset input gives none (R141). -/
def State.silent (s : State) : State := { s with rsp := Option.none }

/-! ## Unspecified values -/

/-- BUF holds unspecified bytes: the free value of this draw (R33, R142). -/
def State.loseBuf (s : State) : State :=
  { s with buf := Config.staleBuf s.draws, draws := s.draws + 1 }

/-- P, NX and BUF hold unspecified values: the free values of this draw (R37). -/
def State.losePending (s : State) : State :=
  { s with
    buf := Config.staleBuf s.draws
    p := Config.staleP s.draws
    nx := Config.staleNX s.draws
    draws := s.draws + 1 }

end Sys2Proof.Machine
end

