-- ==== Sys2Proof/Machine/Compressor.lean ====
section
/-! DEFINITION. The block compressor (42_compressor.md R104 to R116): a total function of the digest state and a
64-byte block. No command names it; FEED_BYTE and FINALIZE use it. -/

namespace Sys2Proof.Machine

/-- The working registers A, B, C, D, E (10_state.md R28). They live only inside a compression (R38, R119). -/
structure Working where
  a : Word
  b : Word
  c : Word
  d : Word
  e : Word
deriving DecidableEq, Repr

/-- BE32(block[4t], ..., block[4t+3]): the block's t-th big-endian word (R41, R105). -/
def blockWord (block : Buffer) (t : Fin 16) : Word :=
  be32 block[4 * t.val] block[4 * t.val + 1] block[4 * t.val + 2] block[4 * t.val + 3]

/-- W[0..15] (R105). -/
def scheduleLoad (block : Buffer) : List Word := (List.finRange 16).map (blockWord block)

/-- W[t] from the t words before it: rotl_1(W[t-3] XOR W[t-8] XOR W[t-14] XOR W[t-16]) (R106). -/
def nextWord (ws : List Word) : Word :=
  rotl 1 (ws.getD (ws.length - 3) 0 ^^^ ws.getD (ws.length - 8) 0
    ^^^ ws.getD (ws.length - 14) 0 ^^^ ws.getD (ws.length - 16) 0)

/-- The schedule with n more words (R106). -/
def scheduleExpand : Nat → List Word → List Word
  | 0, ws => ws
  | n + 1, ws => scheduleExpand n (ws ++ [nextWord ws])

/-- W[0..79] (R105, R106). -/
def schedule (block : Buffer) : List Word := scheduleExpand 64 (scheduleLoad block)

/-- f_t(B, C, D), chosen by the group t div 20 (R108, R110). -/
def roundF (t : Nat) (b c d : Word) : Word :=
  match t / 20 with
  | 0 => (b &&& c) ||| (~~~b &&& d)
  | 1 => b ^^^ c ^^^ d
  | 2 => (b &&& c) ||| (b &&& d) ||| (c &&& d)
  | _ => b ^^^ c ^^^ d

/-- K_t, chosen by the group t div 20 (R109, R110). -/
def roundK (t : Nat) : Word :=
  match t / 20 with
  | 0 => 0x5A827999
  | 1 => 0x6ED9EBA1
  | 2 => 0x8F1BBCDC
  | _ => 0xCA62C1D6

/-- One round: all five registers update together from their values before it (R111). -/
def roundStep (t : Nat) (w : Word) (x : Working) : Working :=
  { a := rotl 5 x.a + x.e + w + roundK t + roundF t x.b x.c x.d
    b := x.a
    c := rotl 30 x.b
    d := x.c
    e := x.d }

/-- The rounds t, t+1, ... over the words given (R111). -/
def rounds (t : Nat) : List Word → Working → Working
  | [], x => x
  | w :: ws, x => rounds (t + 1) ws (roundStep t w x)

/-- The registers before round 0: copies of H[0..4] (R112). -/
def loadWorking (h : Digest) : Working := { a := h[0], b := h[1], c := h[2], d := h[3], e := h[4] }

/-- The final addition, each word mod 2^32 (R113). -/
def addWorking (h : Digest) (x : Working) : Digest :=
  #v[h[0] + x.a, h[1] + x.b, h[2] + x.c, h[3] + x.d, h[4] + x.e]

/-- Compress(H, block) (R116). -/
def compress (h : Digest) (block : Buffer) : Digest :=
  addWorking h (rounds 0 (schedule block) (loadWorking h))

/-- `H <- Compress(H, MemRead(0, 64))`: all five words at once (R116, R120). It writes only H (R104, R119). -/
def State.compressed (s : State) : State := s.withH (compress s.h s.block)

end Sys2Proof.Machine
end

