-- ==== Sys2Proof/Machine/Flags.lean ====
section
/-! DEFINITION. The core's "flags" are PHASE and the fault latch (40_accumulator.md, opening): it has no condition
codes. Here are their binary codes (10_state.md R23; 60_exceptions.md R121), the packed response (30_encoding.md R66) and
the length check (40_accumulator.md R80). -/

namespace Sys2Proof.Machine

/-- PHASE as its 2-bit value (R23). -/
def Phase.code : Phase → BitVec 2
  | .ready => 0b00#2
  | .awaitingPadding => 0b01#2
  | .finalized => 0b10#2

/-- A fault cause as its 4-bit value (R121). -/
def Cause.code : Cause → BitVec 4
  | .none => 0x0#4
  | .illegalCommand => 0x1#4
  | .feedPhase => 0x2#4
  | .bitsPhase => 0x3#4
  | .bitsRange => 0x4#4
  | .finalizePhase => 0x5#4
  | .digestPhase => 0x6#4
  | .lengthOverflow => 0x7#4

/-- STATUS as its bit (R66). -/
def Status.code : Status → BitVec 1
  | .ok => 0#1
  | .fault => 1#1

/-- The response packed into 64 bits: RDATA in 31:0, CAUSE in 35:32, STATUS in 36, zeros above (R66). -/
def Response.pack (r : Response) : DWord :=
  (r.status.code.setWidth 64 <<< 36) ||| (r.cause.code.setWidth 64 <<< 32) ||| r.rdata.setWidth 64

/-- `BITCNT + a <= 2^64 - 1`, computed without wrap-around (R80). -/
abbrev State.lengthFits (a : Nat) (s : State) : Prop := s.bitcnt.toNat + a ≤ 2 ^ 64 - 1

end Sys2Proof.Machine
end

