-- ==== Sys2Proof/Machine/Operands.lean ====
section
/-! DEFINITION. The three operand forms (30_encoding.md R59, R72): a raw byte, a count n, a word index k. Every field
is unsigned and used as it stands. -/

namespace Sys2Proof.Machine

/-- DATA: a byte, stored without change, low bits included (R59, R72). -/
def byteOperand (b : Byte) : Byte := b

/-- ARG as FEED_BITS's count n, 0..7 (R59, R72). -/
def countOperand (n : BitVec 3) : Fin 8 := n.toFin

/-- ARG as READ_DIGEST's word index k: 0..4, no word for 5, 6 and 7 (R69, R72). -/
def indexOperand (k : BitVec 3) : Option (Fin 5) :=
  if h : k.toNat < 5 then some ⟨k.toNat, h⟩ else none

end Sys2Proof.Machine
end

