-- ==== Sys2Proof/Machine/Accumulator.lean ====
section
/-! DEFINITION. The streaming accumulator's commands RESET, FEED_BYTE, FEED_BITS and READ_DIGEST
(40_accumulator.md R78 to R90). -/

namespace Sys2Proof.Machine

/-- RESET (R78): always legal, in every phase and while ERR = 1. -/
def execReset (s : State) : Result := respond 0#32 s.toReset

/-- BUF[P] <- b and BITCNT <- BITCNT + 8 (R81). -/
def State.takeByte (b : Byte) (s : State) : State :=
  { s with buf := s.buf.set s.p b, bitcnt := s.bitcnt + 8#64 }

/-- P <- p (R20). -/
def State.withP (p : Fin 64) (s : State) : State := { s with p := p }

/-- A full buffer is compressed, the byte just written included, and cleared: P <- 0 (R81, R82). What the 64 cells
hold afterwards is unspecified (R33). -/
def State.emptied (s : State) : State := s.compressed.loseBuf.withP 0

/-- The writes of a legal FEED_BYTE (R81). -/
def State.fedByte (b : Byte) (s : State) : State :=
  if s.p = 63 then (s.takeByte b).emptied else (s.takeByte b).withP (s.p + 1)

/-- FEED_BYTE b (R81). -/
def execFeedByte (b : Byte) (s : State) : Result :=
  unlessLatched s <|
    requireElse (s.phase = .ready) .feedPhase s <|
      requireElse (s.lengthFits 8) .lengthOverflow s <|
        respond 0#32 (s.fedByte (byteOperand b))

/-- The writes of a legal FEED_BITS: the raw byte, its low bits kept for now; P is unchanged (R85). -/
def State.fedBits (b : Byte) (n : Fin 8) (s : State) : State :=
  { s with
    buf := s.buf.set s.p b
    nx := n
    bitcnt := s.bitcnt + BitVec.ofNat 64 n.val
    phase := .awaitingPadding }

/-- FEED_BITS b, n (R85). The order of the checks is the order of R125. -/
def execFeedBits (b : Byte) (n : BitVec 3) (s : State) : Result :=
  unlessLatched s <|
    requireElse (s.phase = .ready) .bitsPhase s <|
      requireElse (1 ≤ (countOperand n).val ∧ (countOperand n).val ≤ 7) .bitsRange s <|
        requireElse (s.lengthFits (countOperand n).val) .lengthOverflow s <|
          respond 0#32 (s.fedBits (byteOperand b) (countOperand n))

/-- READ_DIGEST k (R88): H[k] is copied out and not cleared (R89). An index of 5, 6 or 7 is no well-formed command:
its word is ILLEGAL and never decodes to this one; the term raises what the word raises (R69; log entry 12). -/
def execReadDigest (k : BitVec 3) (s : State) : Result :=
  unlessLatched s <|
    match indexOperand k with
    | none => raiseFault .illegalCommand s
    | some i => requireElse (s.phase = .finalized) .digestPhase s <| respond s.h[i] s

end Sys2Proof.Machine
end

