-- ==== Sys2Proof/Machine/Padding.lean ====
section
/-! DEFINITION. FINALIZE (41_padding.md R91 to R101): the 1 bit, the zeros, the length field, one or two
compressions. -/

namespace Sys2Proof.Machine

/-- pos = 8*P + NX, the message bit position of the appended 1 bit, 0..511 (R92). -/
def State.padPos (s : State) : Nat := 8 * s.p.val + s.nx.val

/-- m = (0xFF00 >> NX) AND 0xFF: the NX meaningful high bits of the tail byte (R95). -/
def tailMask (nx : Fin 8) : Byte := ((0xFF00#16 >>> nx.val) &&& 0x00FF#16).setWidth 8

/-- The tail byte with the 1 bit: (b AND m) OR (0x80 >> NX) (R93, R95). -/
def markByte (nx : Fin 8) (b : Byte) : Byte := (b &&& tailMask nx) ||| (0x80#8 >>> nx.val)

/-- PAD_MARK: BUF[P] by R95, every later cell zero (R91, R94). -/
def State.padMarked (s : State) : State :=
  s.withBuf (zeroAfter s.p (s.buf.set s.p (markByte s.nx s.buf[s.p])))

/-- `for k in 0 .. 63: BUF[k] <- 0x00` (R91). -/
def State.padCleared (s : State) : State := s.withBuf zeroBuf

/-- The length field: MemWrite(56, 8, BE64(BITCNT)) (R43, R91). -/
def State.padLength (s : State) : State := s.withBuf (memWrite 56 (be64 s.bitcnt) s.buf)

/-- The first of two blocks is compressed where the length does not fit: pos > 447 (R91, R98). -/
def State.padSplit (s : State) : State :=
  if 447 < s.padPos then s.padMarked.compressed.padCleared else s.padMarked

/-- PHASE <- Finalized (R91). -/
def State.closed (s : State) : State := { s with phase := .finalized }

/-- The writes of a legal FINALIZE, up to the last compression and PHASE (R91). -/
def State.padded (s : State) : State := s.padSplit.padLength.compressed.closed

/-- FINALIZE (R91): legal in Ready and in AwaitingPadding. Afterwards P, NX and BUF are unspecified (R37). -/
def execFinalize (s : State) : Result :=
  unlessLatched s <|
    requireElse (s.phase ≠ .finalized) .finalizePhase s <|
      respond 0#32 s.padded.losePending

end Sys2Proof.Machine
end

