-- ==== Sys2Proof/Machine/Dispatch.lean ====
section
/-! DEFINITION. exec: one arm per command, each one direct call of its meaning. -/

namespace Sys2Proof.Machine

def exec (i : Instr) (s : State) : Host.Outcome State Fault Refusal :=
  match i with
  | .reset => Sys2Proof.Machine.execReset s
  | .feedByte b => Sys2Proof.Machine.execFeedByte b s
  | .feedBits b n => Sys2Proof.Machine.execFeedBits b n s
  | .finalize => Sys2Proof.Machine.execFinalize s
  | .readDigest k => Sys2Proof.Machine.execReadDigest k s

end Sys2Proof.Machine
end

