-- ==== Sys2Proof/Machine/Command.lean ====
section
/-! DEFINITION. One command word (40_accumulator.md R77), one event of the host (70_reset_and_hazards.md R141 to R143),
and the next event of the host's list. Machine/Step.lean only calls it. -/

namespace Sys2Proof.Machine

/-- The command step (R77): decode w, then perform the command, or raise for an ILLEGAL word. The latch check stands
first in every meaning but RESET's, and in illegalWord. -/
def performWord (w : Word) (s : State) : Result :=
  match decode w with
  | .ok i => exec i s
  | .error _ => illegalWord s

/-- The reset input, no command in progress: RESET's effect on every piece of state, and no response (R141). -/
def resetByInput (s : State) : State := s.toReset.silent

/-- The reset input while a command is in progress: as resetByInput, and BUF holds unspecified bytes (R142). -/
def resetInProgress (s : State) : State := (resetByInput s).loseBuf

/-- What one event of the host or the platform does to the core. -/
def takeEvent (e : HostEvent) (s : State) : Result :=
  match e with
  | .command w => performWord w s
  | .resetInput => .next (resetByInput s)
  | .resetWith _ => .next (resetByInput s)
  | .resetDuring _ => .next (resetInProgress s)
  | .powerUp => .next (resetInProgress s)

/-- The next event of the host, taken from its list; with none left the core is idle and keeps its state (R139, R150). -/
def nextEvent (s : State) : Result :=
  match s.pending with
  | [] => .next s
  | e :: rest => takeEvent e { s with pending := rest }

/-- s with the command word w presented next, before whatever the host presents after it. -/
def present (w : Word) (s : State) : State := { s with pending := .command w :: s.pending }

end Sys2Proof.Machine
end

