-- ==== Sys2Proof/Machine/Step.lean ====
section
/-! DEFINITION. One step of the machine: the next event the host presents (20_memory.md R51). -/

namespace Sys2Proof.Machine

/-- One step: one event of the host, complete before the next (R51). -/
def step (s : State) : Host.Outcome State Fault Refusal := Sys2Proof.Machine.nextEvent s

/-- s with the table's word presented as the host's next command (log entry 2). -/
def State.withFetchWord (s : State) (nbits w : Nat) : State :=
  Sys2Proof.Machine.present (BitVec.ofNat 32 (tableBits nbits w)) s

end Sys2Proof.Machine
end

