-- ==== Sys2Proof/Machine/Pseudo.lean ====
section
/-! DEFINITION. The host-side pseudo-commands feed, digest and hash (30_encoding.md R74 to R76) as command sequences,
what the host makes of their responses, and the responses of a sequence of command words (00_scope.md R16). -/

namespace Sys2Proof.Machine

/-- `feed b0, b1, ...`: one FEED_BYTE per byte, in order; no command for no byte (R74). -/
def feedCmds (bytes : List Byte) : List Instr := bytes.map Instr.feedByte

/-- The ASCII codes of a text; refused where a character has none (R74). -/
def asciiBytes : List Char → Option (List Byte)
  | [] => some []
  | c :: cs => if c.toNat < 128 then (asciiBytes cs).map (BitVec.ofNat 8 c.toNat :: ·) else none

/-- `feed "text"` (R74). -/
def feedText (text : List Char) : Option (List Instr) := (asciiBytes text).map feedCmds

/-- `digest`: rddig 0 .. rddig 4 (R75). -/
def digestCmds : List Instr :=
  [.readDigest 0#3, .readDigest 1#3, .readDigest 2#3, .readDigest 3#3, .readDigest 4#3]

/-- The FEED_BITS of `hash`, absent where there is no tail or n = 0; n >= 8 is refused on the host (R76). -/
def tailCmds : Option (Byte × Nat) → Option (List Instr)
  | none => some []
  | some (x, n) => if n = 0 then some [] else if n < 8 then some [.feedBits x (BitVec.ofNat 3 n)] else none

/-- `hash <bytes> [, <xbyte>, <n>]`: reset, feed, optional feedx, final, digest, reset (R76). Where it is refused the
host issues nothing. -/
def hashCmds (bytes : List Byte) (tail : Option (Byte × Nat)) : Option (List Instr) :=
  (tailCmds tail).map fun t => [.reset] ++ feedCmds bytes ++ t ++ [.finalize] ++ digestCmds ++ [.reset]

/-- Commands as the host presents them, each by its word (R57, R70). -/
def presentCmd (i : Instr) : HostEvent := .command (encode i)

/-- A command sequence as events of the host (R57). -/
def asEvents (is : List Instr) : List HostEvent := is.map presentCmd

/-- The result of `digest` from the responses of its READ_DIGESTs: the bytes of their words, or the first fault
(R44, R75). -/
def digestResult : List Response → Except Cause (List Byte)
  | [] => .ok []
  | r :: rs =>
    match r.status with
    | .fault => .error r.cause
    | .ok => (digestResult rs).map (bytes32 r.rdata ++ ·)

/-- The core after a sequence of command words, each complete before the next (R51); it stops where a command does. -/
def performWords : List Word → State → Result
  | [], s => .next s
  | w :: ws, s =>
    match performWord w s with
    | .next t => performWords ws t
    | .fault r => .fault r
    | .refused r => .refused r

/-- The response sequence of a sequence of command words: all the host observes (R16). -/
def responsesTo : List Word → State → List (Option Response)
  | [], _ => []
  | w :: ws, s =>
    match performWord w s with
    | .next t => t.rsp :: responsesTo ws t
    | .fault _ => []
    | .refused _ => []

/-- The responses of a sequence's READ_DIGEST commands, in order, picked from all its responses (R75). -/
def digestResponses : List Instr → List (Option Response) → List Response
  | .readDigest _ :: is, some r :: rs => r :: digestResponses is rs
  | _ :: is, _ :: rs => digestResponses is rs
  | _, _ => []

/-- The result of an expanded pseudo-command issued from s: its `digest`'s (R75, R76). -/
def pseudoResult (is : List Instr) (s : State) : Except Cause (List Byte) :=
  digestResult (digestResponses is (responsesTo (is.map encode) s))

/-- `digest` issued from s: its 20 bytes, or its fault (R75). -/
def runDigest (s : State) : Except Cause (List Byte) := pseudoResult digestCmds s

/-- `hash` issued from s: none where the host refuses it and issues nothing, else its `digest`'s result (R76). -/
def runHash (bytes : List Byte) (tail : Option (Byte × Nat)) (s : State) : Option (Except Cause (List Byte)) :=
  (hashCmds bytes tail).map fun is => pseudoResult is s

end Sys2Proof.Machine
end

