-- ==== Sys2Proof/Machine/Assembler.lean ====
section
/-! DEFINITION. The assembler syntax (30_encoding.md R73) with the pseudo-commands feed, digest and hash (R74 to R76), on
a line given as its characters. The lexical points R73 to R76 leave open are in log entry 23. -/

namespace Sys2Proof.Machine

/-- A blank of the source text. -/
def isBlank (c : Char) : Bool := c == ' ' || c == '\t'

/-- The line without its comment, which a `;` starts (R73). R73 does not say what a `;` inside a quoted text is: here it
is a character of the text and starts no comment (DESIGN CHOICE, log entry 23). -/
def stripComment : Bool → List Char → List Char
  | _, [] => []
  | quoted, c :: cs =>
    if c == ';' && !quoted then [] else c :: stripComment (if c == '"' then !quoted else quoted) cs

/-- The text without blanks at its two ends. -/
def trim (cs : List Char) : List Char := ((cs.dropWhile isBlank).reverse.dropWhile isBlank).reverse

/-- The value of a digit in the base given, if it is one. -/
def digitValue (base : Nat) (c : Char) : Option Nat :=
  let v :=
    if '0'.toNat ≤ c.toNat ∧ c.toNat ≤ '9'.toNat then c.toNat - '0'.toNat
    else if 'a'.toNat ≤ c.toNat ∧ c.toNat ≤ 'f'.toNat then c.toNat - 'a'.toNat + 10
    else if 'A'.toNat ≤ c.toNat ∧ c.toNat ≤ 'F'.toNat then c.toNat - 'A'.toNat + 10
    else 16
  if v < base then some v else none

/-- The number the digits write, after the value read so far. -/
def digitsValue (base acc : Nat) : List Char → Option Nat
  | [] => some acc
  | c :: cs => (digitValue base c).bind fun v => digitsValue base (acc * base + v) cs

/-- A number: decimal, or `0x` hexadecimal (R73). -/
def numberValue (cs : List Char) : Option Nat :=
  match cs with
  | '0' :: 'x' :: d :: ds => digitsValue 16 0 (d :: ds)
  | d :: ds => digitsValue 10 0 (d :: ds)
  | [] => none

/-- The operands: the texts between commas (R73). -/
def splitCommas : List Char → List (List Char)
  | [] => [[]]
  | c :: cs =>
    match splitCommas cs with
    | [] => [[c]]
    | x :: xs => if c == ',' then [] :: x :: xs else (c :: x) :: xs

/-- The operands' numbers; no text is no operand. -/
def operandValues (cs : List Char) : Option (List Nat) :=
  match trim cs with
  | [] => some []
  | c :: rest => (splitCommas (c :: rest)).mapM fun x => numberValue (trim x)

/-- A byte operand, 0..255 (R73). -/
def asByte (n : Nat) : Option Byte := if n ≤ 255 then some (BitVec.ofNat 8 n) else none

/-- A mnemonic other than `hash` and its operands' values; an operand out of range is refused at assembly time, and `feedx b, 0`
assembles (R73). -/
def assembleOps (mnemonic : List Char) (ops : List Nat) : Option (List Instr) :=
  if mnemonic = ['r', 'e', 's', 'e', 't'] then
    match ops with
    | [] => some [.reset]
    | _ => none
  else if mnemonic = ['f', 'e', 'e', 'd', 'b'] then
    match ops with
    | [b] => (asByte b).map fun x => [.feedByte x]
    | _ => none
  else if mnemonic = ['f', 'e', 'e', 'd', 'x'] then
    match ops with
    | [b, n] => if n ≤ 7 then (asByte b).map fun x => [.feedBits x (BitVec.ofNat 3 n)] else none
    | _ => none
  else if mnemonic = ['f', 'i', 'n', 'a', 'l'] then
    match ops with
    | [] => some [.finalize]
    | _ => none
  else if mnemonic = ['r', 'd', 'd', 'i', 'g'] then
    match ops with
    | [k] => if k ≤ 4 then some [.readDigest (BitVec.ofNat 3 k)] else none
    | _ => none
  else if mnemonic = ['f', 'e', 'e', 'd'] then
    (ops.mapM asByte).map feedCmds
  else if mnemonic = ['d', 'i', 'g', 'e', 's', 't'] then
    match ops with
    | [] => some digestCmds
    | _ => none
  else none

/-- A quoted text at the start of the operands, and what follows its closing quote. -/
def quotedOperand : List Char → Option (List Char × List Char)
  | '"' :: rest =>
    match rest.dropWhile (· != '"') with
    | _ :: after => some (rest.takeWhile (· != '"'), trim after)
    | [] => none
  | _ => none

/-- The optional `, <xbyte>, <n>` of `hash`, given with its first comma (R76). -/
def tailOperands : List Char → Option (Option (Byte × Nat))
  | [] => some none
  | ',' :: cs =>
    match operandValues cs with
    | some [x, n] => (asByte x).map fun b => some (b, n)
    | _ => none
  | _ => none

/-- The operands of `hash` given as numbers only (R74, R76). Whether the last two of them are its tail is the assembler's
choice, which R76 leaves open (log entry 23). -/
def hashNumbers (ns : List Nat) : Option (List Byte × Option (Byte × Nat)) :=
  match if Config.hashEndsInTail ns then ns.drop (ns.length - 2) else [] with
  | [x, n] => ((ns.take (ns.length - 2)).mapM asByte).bind fun bytes => (asByte x).map fun b => (bytes, some (b, n))
  | _ => (ns.mapM asByte).map fun bytes => (bytes, none)

/-- The operands of `hash`: a quoted text, nothing before the tail's comma (no byte), or numbers (R74, R76). -/
def hashOperands (cs : List Char) : Option (List Byte × Option (Byte × Nat)) :=
  match cs with
  | '"' :: _ =>
    (quotedOperand cs).bind fun q => (asciiBytes q.1).bind fun bytes => (tailOperands q.2).map fun tail => (bytes, tail)
  | ',' :: _ => (tailOperands cs).map fun tail => ([], tail)
  | _ => (operandValues cs).bind hashNumbers

/-- A mnemonic and the text of its operands: `hash` (R76), `feed "text"` (R74), or operands that are numbers (R73). -/
def assembleCommand (mnemonic operands : List Char) : Option (List Instr) :=
  if mnemonic = ['h', 'a', 's', 'h'] then (hashOperands operands).bind fun m => hashCmds m.1 m.2
  else
    match quotedOperand operands with
    | some (text, []) => if mnemonic = ['f', 'e', 'e', 'd'] then feedText text else none
    | _ => (operandValues operands).bind fun ops => assembleOps mnemonic ops

/-- One line: no command for a line with none, else mnemonic first and its operands (R73). -/
def assembleLine (line : List Char) : Option (List Instr) :=
  match trim (stripComment false line) with
  | [] => some []
  | c :: cs =>
    assembleCommand ((c :: cs).takeWhile fun x => !isBlank x) (trim ((c :: cs).dropWhile fun x => !isBlank x))

/-- The words of a line's commands (R73). -/
def assembleWords (line : List Char) : Option (List Word) := (assembleLine line).map fun is => is.map encode

end Sys2Proof.Machine
end

