-- ==== Sys2Proof/Machine/Layouts.lean ====
section
/-! DEFINITION. The three layouts of the compressor (42_compressor.md R107, R118): ITERATIVE, PIPELINED, UNROLLED.
The commands use `compress` (R116); that each layout computes it is stated for the provers. -/

namespace Sys2Proof.Machine

/-! ## ITERATIVE -/

/-- The ITERATIVE compressor while it runs: the round index t, 0..79 before a round (10_state.md R31) and 80 once the
rounds are done (DESIGN CHOICE, log entry 19), A..E, and the 16-word circular window S of R107. -/
structure IterState where
  t : Nat
  work : Working
  window : Vector Word 16
deriving DecidableEq, Repr

/-- The busy flag: the rounds are not yet all done. R31 says only that a compressor possibly keeps one; that this layout
has it, read off t, and that t stands at 80 when it is clear are the model's (DESIGN CHOICE, log entry 19). -/
def IterState.busy (x : IterState) : Bool := x.t < 80

/-- S starts as W[0..15] and A..E as H[0..4] (R107, R112). -/
def iterLoad (h : Digest) (block : Buffer) : IterState :=
  { t := 0, work := loadWorking h, window := Vector.ofFn (blockWord block) }

/-- The window entry that holds W[i], or the W whose index is i mod 16 (R107). -/
def slot (i : Nat) : Fin 16 := Fin.ofNat 16 i

/-- For t >= 16, slot t mod 16 is replaced before round t (R107). -/
def IterState.slide (x : IterState) : Vector Word 16 :=
  if x.t < 16 then x.window
  else x.window.set (slot x.t)
    (rotl 1 (x.window.get (slot (x.t - 3)) ^^^ x.window.get (slot (x.t - 8)) ^^^ x.window.get (slot (x.t - 14)) ^^^ x.window.get (slot x.t)))

/-- One round step (R107, R118); once the 80 rounds are done nothing changes (DESIGN CHOICE, log entry 19). -/
def IterState.tick (x : IterState) : IterState :=
  if x.busy then
    { t := x.t + 1, work := roundStep x.t (x.slide.get (slot x.t)) x.work, window := x.slide }
  else x

/-- n round steps. -/
def iterRun : Nat → IterState → IterState
  | 0, x => x
  | n + 1, x => iterRun n x.tick

/-- The ITERATIVE compressor: the load, 80 round steps, the final addition (R118). -/
def compressIterative (h : Digest) (block : Buffer) : Digest :=
  addWorking h (iterRun 80 (iterLoad h block)).work

/-! ## PIPELINED -/

/-- What one stage of the PIPELINED compressor holds: its own A..E, and its own window of 16 words, W[t] first (R118). -/
structure Stage where
  work : Working
  window : List Word
deriving DecidableEq, Repr

/-- Stage t: round t with the window's first word, and the window moved on by one word (R106, R111). -/
def Stage.advance (t : Nat) (x : Stage) : Stage :=
  { work := roundStep t (x.window.getD 0 0) x.work
    window := x.window.drop 1 ++
      [rotl 1 (x.window.getD 13 0 ^^^ x.window.getD 8 0 ^^^ x.window.getD 2 0 ^^^ x.window.getD 0 0)] }

/-- The 80 stages, each empty or holding a block after its round. -/
abbrev Pipe := List (Option Stage)

/-- Every stage from stage t on takes what the stage before it held; stage t takes `input`. -/
def pipeTickFrom (t : Nat) (input : Option Stage) : Pipe → Pipe
  | [] => []
  | x :: xs => input.map (Stage.advance t) :: pipeTickFrom (t + 1) x xs

/-- One tick of the pipeline, with what enters its first stage. -/
def pipeTick (input : Option Stage) (x : Pipe) : Pipe := pipeTickFrom 0 input x

/-- n ticks with nothing entering. -/
def pipeDrain : Nat → Pipe → Pipe
  | 0, x => x
  | n + 1, x => pipeDrain n (pipeTick none x)

/-- The pipeline with no block in flight. -/
def emptyPipe : Pipe := List.replicate 80 none

/-- How many blocks are in flight: at most one for one core (R118). -/
def Pipe.inFlight (x : Pipe) : Nat := (x.filter Option.isSome).length

/-- What enters the first stage for a block (R105, R112). -/
def pipeLoad (h : Digest) (block : Buffer) : Stage := { work := loadWorking h, window := scheduleLoad block }

/-- The PIPELINED compressor: the block enters, 80 stages pass, the last stage's registers are added (R118). -/
def compressPipelined (h : Digest) (block : Buffer) : Digest :=
  match (pipeDrain 79 (pipeTick (some (pipeLoad h block)) emptyPipe)).getLast? with
  | some (some x) => addWorking h x.work
  | _ => h

/-! ## UNROLLED -/

/-- `(B AND C) XOR ((NOT B) AND D)`, the other form of R108's first function (R115). -/
def selectXor (b c d : Word) : Word := (b &&& c) ^^^ (~~~b &&& d)

/-- `B XOR C XOR D` (R108). -/
def parity3 (b c d : Word) : Word := b ^^^ c ^^^ d

/-- `(B AND C) OR (D AND (B OR C))`, the other form of R108's third function (R115). -/
def majorityShort (b c d : Word) : Word := (b &&& c) ||| (d &&& (b ||| c))

/-- One round with its function and constant wired in; the sum in another order (R111, R115). -/
def wiredRound (f : Word → Word → Word → Word) (k w : Word) (x : Working) : Working :=
  { a := (rotl 5 x.a + f x.b x.c x.d) + (x.e + (k + w)), b := x.a, c := rotl 30 x.b, d := x.c, e := x.d }

/-- A group of rounds with one function and one constant (R110). -/
def wiredGroup (f : Word → Word → Word → Word) (k : Word) : List Word → Working → Working
  | [], x => x
  | w :: ws, x => wiredGroup f k ws (wiredRound f k w x)

/-- The UNROLLED compressor: the four groups of 20 rounds as one path (R110, R118). -/
def compressUnrolled (h : Digest) (block : Buffer) : Digest :=
  let w := schedule block
  let x0 := wiredGroup selectXor 0x5A827999 (w.take 20) (loadWorking h)
  let x1 := wiredGroup parity3 0x6ED9EBA1 ((w.drop 20).take 20) x0
  let x2 := wiredGroup majorityShort 0x8F1BBCDC ((w.drop 40).take 20) x1
  let x3 := wiredGroup parity3 0xCA62C1D6 ((w.drop 60).take 20) x2
  addWorking h x3

/-! ## The layout a chip has -/

/-- The compressor in the layout given (R118). -/
def compressBy (arch : CompressArch) (h : Digest) (block : Buffer) : Digest :=
  match arch with
  | .iterative => compressIterative h block
  | .pipelined => compressPipelined h block
  | .unrolled => compressUnrolled h block

/-- The compressor of this chip: COMPRESS_ARCH is open (R6, D16). -/
def chipCompress (h : Digest) (block : Buffer) : Digest := compressBy Config.compressArch h block

end Sys2Proof.Machine
end

