-- ==== Sys2Proof/Machine/PaddingFsm.lean ====
section
/-! DEFINITION. The padding FSM of the hardware (41_padding.md R102). FINALIZE is one step of the machine; this is how
the hardware takes it. No response shows these states. -/

namespace Sys2Proof.Machine

/-- The FSM's internal states (R102). -/
inductive PadState where
  | mark
  | comp1
  | clear
  | len
  | comp2
  | done
deriving DecidableEq, Repr

/-- One state's action, and the next state; none where the command ends (R102). -/
def padTick (q : PadState) (s : State) : Option PadState × State :=
  match q with
  | .mark => (if 447 < s.padPos then some .comp1 else some .len, s.padMarked)
  | .comp1 => (some .clear, s.compressed)
  | .clear => (some .len, s.padCleared)
  | .len => (some .comp2, s.padLength)
  | .comp2 => (some .done, s.compressed)
  | .done => (none, s.closed.responded 0#32)

/-- The FSM from state q, for at most n actions (R102). -/
def padRun : Nat → PadState → State → State
  | 0, _, s => s
  | n + 1, q, s =>
    match padTick q s with
    | (none, t) => t
    | (some q', t) => padRun n q' t

/-- The whole FSM: at most six states, from PAD_MARK to the command's end (R102). -/
def padFsm (s : State) : State := padRun 6 .mark s

end Sys2Proof.Machine
end

