-- ==== Sys2Proof/Machine/Platform.lean ====
section
/-! DEFINITION. A platform of n independent cores (10_state.md R40; 20_memory.md R56; 60_exceptions.md R137): the
product of n copies of the state, each with its own host. -/

namespace Sys2Proof.Machine

/-- n cores, which share nothing (R40). -/
abbrev Platform (n : Nat) := Vector State n

/-- Every core right after its own reset (R137, R141). -/
def Platform.start (n : Nat) : Platform n := Vector.replicate n State.reset

/-- One step of core i; the others keep their state (R40, R56). -/
def Platform.stepAt {n : Nat} (i : Fin n) (x : Platform n) : Host.Outcome (Platform n) Fault Refusal :=
  match step x[i] with
  | .next s => .next (x.set i s)
  | .fault r => .fault r
  | .refused r => .refused r

/-- The platform of N_INSTANCES cores (R6, D24). -/
abbrev ChipPlatform := Platform Config.nInstances

end Sys2Proof.Machine
end

