-- ==== Sys2Proof/Safety.lean ====
section
/-! DEFINITION. What the claims are stated in: a run without a fault (10_state.md R39), a fault taken (60_exceptions.md
R124), the invariants between commands (10_state.md R27), the message a core has absorbed (40_accumulator.md R87), its
SHA-1 digest written bit by bit (41_padding.md R92 to R103), and what no response reveals (00_scope.md R16). -/

namespace Sys2Proof.Machine

/-- No fault recorded in the run's log: the premise of every claim that calls H or a response a message's digest
(R39, R129; log entry 1). -/
def State.noFault (s : State) : Prop := s.faultLog = Option.none

/-- The response of a command that completes and returns no data: (0, 0, 0) (R66). -/
def okResponse : Response := { status := .ok, cause := .none, rdata := 0#32 }

/-- The response (1, cause, 0) of a fault (R124). -/
def faultResponse (c : Cause) : Response := { status := .fault, cause := c, rdata := 0#32 }

/-- From s to t a fault was taken and reported as c: the latch holds c, the response is (1, c, 0), and H, BUF, P, NX,
BITCNT and PHASE keep their values (R124); the fault log keeps the run's first fault (R39). -/
def FaultTaken (c : Cause) (s t : State) : Prop :=
  t.err = true ∧ t.errCause = c ∧ t.rsp = some (faultResponse c) ∧
  t.h = s.h ∧ t.buf = s.buf ∧ t.p = s.p ∧ t.nx = s.nx ∧ t.bitcnt = s.bitcnt ∧ t.phase = s.phase ∧
  t.faultLog = some (s.faultLog.getD c) ∧ t.pending = s.pending ∧ t.draws = s.draws

/-- The table of R122: command i raises cause c in state s when this holds. -/
def FaultCondition : Instr → Cause → State → Prop
  | .feedByte _, .feedPhase, s => s.phase ≠ .ready
  | .feedByte _, .lengthOverflow, s => 2 ^ 64 - 1 < s.bitcnt.toNat + 8
  | .feedBits _ _, .bitsPhase, s => s.phase ≠ .ready
  | .feedBits _ n, .bitsRange, _ => n = 0#3
  | .feedBits _ n, .lengthOverflow, s => 2 ^ 64 - 1 < s.bitcnt.toNat + n.toNat
  | .finalize, .finalizePhase, s => s.phase = .finalized
  | .readDigest _, .digestPhase, s => s.phase ≠ .finalized
  | _, _, _ => False

/-! ## Invariants -/

/-- What holds between commands, from every reset onward: R27 (b), (c), (d); and of the fault latch, the fault log and
the response port: ERR = 1 exactly when ERR_CAUSE is not NONE (R24, R36, R121), a latched fault stands in the log
(R39), and the response's STATUS is FAULT exactly when ERR = 1 and when its CAUSE is not NONE (R66, R124). -/
def State.Coherent (s : State) : Prop :=
  (s.phase = .ready → s.nx = 0) ∧
  (s.phase = .awaitingPadding → s.nx ≠ 0) ∧
  (s.phase ≠ .finalized → s.bitcnt.toNat % 512 = 8 * s.p.val + s.nx.val) ∧
  (s.phase = .ready → s.bitcnt.toNat % 8 = 0) ∧
  (s.err = true ↔ s.errCause ≠ .none) ∧
  (s.err = true → s.faultLog ≠ Option.none) ∧
  (∀ r, s.rsp = some r → (r.status = .fault ↔ s.err = true) ∧ (r.status = .fault ↔ r.cause ≠ .none))

/-! ## Message bits -/

/-- The bits of a byte, most significant first (R9, R42). -/
def byteBits (b : Byte) : List Bool := (List.range 8).map fun j => b.getMsbD j

/-- The bits of a 64-byte block by message bit position 0..511 (R9). -/
def blockBits (block : Buffer) : List Bool := block.toList.flatMap byteBits

/-- The bits of the u64 length, most significant first (R43). -/
def lengthBits (n : DWord) : List Bool := (List.range 64).map fun j => n.getMsbD j

/-- The message bits not yet compressed: the P complete bytes, then the NX high bits of the tail byte (R19, R42, R97). -/
def State.pendingBits (s : State) : List Bool :=
  (s.buf.toList.take s.p.val).flatMap byteBits ++ (byteBits s.buf[s.p]).take s.nx.val

/-- The message of FEED_BYTE commands and an optional FEED_BITS x, n (R87). -/
def messageBits (bytes : List Byte) (tail : Option (Byte × Nat)) : List Bool :=
  bytes.flatMap byteBits ++
    match tail with
    | none => []
    | some (x, n) => (byteBits x).take n

/-- The byte whose bits, most significant first, begin the list; missing bits are 0. -/
def bitsByte (bits : List Bool) : Byte :=
  (List.range 8).foldl (fun acc j => (acc <<< 1) ||| (if bits.getD j false then 1#8 else 0#8)) 0#8

/-- The block whose bits begin the list (R9). -/
def bitsBlock (bits : List Bool) : Buffer := Vector.ofFn fun i : Fin 64 => bitsByte (bits.drop (8 * i.val))

/-- n blocks of 512 bits from the list's start. -/
def bitsBlocks : Nat → List Bool → List Buffer
  | 0, _ => []
  | n + 1, bits => bitsBlock bits :: bitsBlocks n (bits.drop 512)

/-- The 0 bits between the 1 bit and the length field, for a message of that many bits: the length field ends a
512-bit block (R94, R98). -/
def padZeros (len : Nat) : Nat := (959 - len % 512) % 512

/-- The padded message: the message, a 1 bit, zeros, the 64-bit length (R92 to R100). -/
def paddedBits (m : List Bool) : List Bool :=
  m ++ [true] ++ List.replicate (padZeros m.length) false ++ lengthBits (BitVec.ofNat 64 m.length)

/-- The SHA-1 digest of a message of bits: the padded message's floor((len + 64) / 512) + 1 blocks, compressed in
order from the IV (R18, R101, R103; log entry 22). -/
def sha1 (m : List Bool) : Digest :=
  (bitsBlocks ((m.length + 64) / 512 + 1) (paddedBits m)).foldl compress iv

/-- The core has absorbed the message m, whose whole blocks are `blocks`: they are compressed into H in order, the rest
of m is pending, and BITCNT is m's length (R83, R87). -/
def AbsorbedAs (blocks : List Buffer) (m : List Bool) (s : State) : Prop :=
  m = blocks.flatMap blockBits ++ s.pendingBits ∧ s.h = blocks.foldl compress iv ∧ s.bitcnt.toNat = m.length

/-- The core has absorbed the message m (R83, R87). -/
def Absorbed (m : List Bool) (s : State) : Prop := ∃ blocks : List Buffer, AbsorbedAs blocks m s

/-- In a run without a recorded fault (R129): while a message is being fed the core has absorbed one, and in Finalized H
is the SHA-1 digest of a message of BITCNT bits (R37, R87, R103). -/
def State.Sound (s : State) : Prop :=
  s.Coherent ∧
  (s.noFault →
    (s.phase ≠ .finalized → ∃ m, Absorbed m s) ∧
    (s.phase = .finalized → ∃ m, s.h = sha1 m ∧ s.bitcnt.toNat = m.length))

/-! ## FINALIZE's blocks -/

/-- The last block where the length fits: the P message bytes, BUF[P] with the 1 bit, zeros to byte 55, BE64(BITCNT) (R95, R99). -/
def OneBlockLayout (s : State) (block : Buffer) : Prop :=
  ∀ k : Fin 64, block[k] =
    if k < s.p then s.buf[k]
    else if 56 ≤ k.val then s.bitcnt.extractLsb' (8 * (63 - k.val)) 8
    else if k = s.p then (s.buf[k] &&& (((0xFF00#16 >>> s.nx.val) &&& 0xFF#16).setWidth 8)) ||| (0x80#8 >>> s.nx.val)
    else 0#8

/-- The first of two blocks: the P message bytes, BUF[P] with the 1 bit, zeros to the end (R95, R100). -/
def FirstBlockLayout (s : State) (block : Buffer) : Prop :=
  ∀ k : Fin 64, block[k] =
    if k < s.p then s.buf[k]
    else if k = s.p then (s.buf[k] &&& (((0xFF00#16 >>> s.nx.val) &&& 0xFF#16).setWidth 8)) ||| (0x80#8 >>> s.nx.val)
    else 0#8

/-- The second of two blocks: 56 zero bytes, BE64(BITCNT) (R100). -/
def SecondBlockLayout (s : State) (block : Buffer) : Prop :=
  ∀ k : Fin 64, block[k] = if 56 ≤ k.val then s.bitcnt.extractLsb' (8 * (63 - k.val)) 8 else 0#8

/-! ## Observation -/

/-- The two states differ only in what no later response reveals (R16): the BUF cells and tail bits outside the
pending message (R32, R33), P, NX and BUF in Finalized (R37), the fault log, and the model's own fields. -/
def Agree (s t : State) : Prop :=
  s.h = t.h ∧ s.bitcnt = t.bitcnt ∧ s.phase = t.phase ∧ s.err = t.err ∧ s.errCause = t.errCause ∧
  (s.phase ≠ .finalized → s.p = t.p ∧ s.nx = t.nx ∧ s.pendingBits = t.pendingBits)

end Sys2Proof.Machine
end

