-- ==== Sys2Proof/Certificates/Slice0/Obligations.lean ====
section
/-! DEFINITION. The statements for the provers. Each docstring names the rules of spec/ it formalises. -/

open Sys2Proof Sys2Proof.Machine

/-! ## Encoding and decoding (30_encoding.md) -/

/-- R61 to R65, R67: decoding the word of any well-formed command gives it back, with every operand. -/
def Obligations.DecodeOfEncodeIsTheCommand : Prop :=
  ∀ i : Instr, i.wellFormed = true → decode (encode i) = .ok i

/-- R70: a word that decodes to a command is that command's one word, and the command is well formed. -/
def Obligations.EncodeOfDecodeIsTheWord : Prop :=
  ∀ (w : Word) (i : Instr), decode w = .ok i → i.wellFormed = true ∧ encode i = w

/-- R61, R62, R64 and the formulas of R63 and R65: the words of the five commands. -/
def Obligations.EncodedWordsFollowTheFormulas : Prop :=
  encode .reset = 0x00000001#32 ∧
  (∀ b : Byte, encode (.feedByte b) = (b.setWidth 32 <<< 8) ||| 0x2#32) ∧
  (∀ (b : Byte) (n : BitVec 3), encode (.feedBits b n) = (b.setWidth 32 <<< 8) ||| (n.setWidth 32 <<< 4) ||| 0x3#32) ∧
  encode .finalize = 0x00000004#32 ∧
  (∀ k : BitVec 3, encode (.readDigest k) = (k.setWidth 32 <<< 4) ||| 0x5#32)

/-- 95_test_vectors.md 2.7: what some words decode to, written out from their bits. -/
def Obligations.SampleWordsDecode : Prop :=
  decode 0b00000000000000000000000000000001#32 = .ok .reset ∧
  decode 0b00000000000000000110000100000010#32 = .ok (.feedByte 0x61#8) ∧
  decode 0b00000000000000001001100001010011#32 = .ok (.feedBits 0x98#8 5#3) ∧
  decode 0b00000000000000001111111100000011#32 = .ok (.feedBits 0xFF#8 0#3) ∧
  decode 0b00000000000000000000000000000100#32 = .ok .finalize ∧
  decode 0b00000000000000000000000001000101#32 = .ok (.readDigest 4#3) ∧
  decode 0x00000000#32 = .error .reservedOpcode ∧
  decode 0x0000FF83#32 = .error .reservedField ∧
  decode 0x00000104#32 = .error .reservedField ∧
  decode 0x00000055#32 = .error .digestIndex ∧
  decode 0x00010002#32 = .error .reservedField ∧
  decode 0x0000000F#32 = .error .reservedOpcode

/-- R68: OP = 0x0 and OP = 0x6..0xF are illegal and raise ILLEGAL_COMMAND (while ERR = 0; R126 is a statement of its own). -/
def Obligations.ReservedOpcodesRaiseIllegalCommand : Prop :=
  ∀ (w : Word) (s : State), (w.extractLsb' 0 4 = 0x0#4 ∨ 0x6#4 ≤ w.extractLsb' 0 4) → s.err = false →
    ∃ t, performWord w s = .next t ∧ FaultTaken .illegalCommand s t

/-- R69: a legal opcode with an unused field that is not zero, and a READ_DIGEST index of 5, 6 or 7, are illegal and
raise ILLEGAL_COMMAND (while ERR = 0). -/
def Obligations.ReservedFieldsRaiseIllegalCommand : Prop :=
  ∀ (w : Word) (s : State),
    ((w.extractLsb' 0 4 = 0x1#4 ∨ w.extractLsb' 0 4 = 0x4#4) ∧ w.extractLsb' 4 28 ≠ 0#28 ∨
      w.extractLsb' 0 4 = 0x2#4 ∧ (w.extractLsb' 16 16 ≠ 0#16 ∨ w.extractLsb' 4 4 ≠ 0#4) ∨
      w.extractLsb' 0 4 = 0x3#4 ∧ (w.extractLsb' 16 16 ≠ 0#16 ∨ w.extractLsb' 7 1 ≠ 0#1) ∨
      w.extractLsb' 0 4 = 0x5#4 ∧ (w.extractLsb' 7 25 ≠ 0#25 ∨ 4#3 < w.extractLsb' 4 3)) →
    s.err = false →
    ∃ t, performWord w s = .next t ∧ FaultTaken .illegalCommand s t

/-! ## The step -/

/-- R77, R51: when the host's next command word decodes to i, the step is exec of i on the state without that word;
the rest of the host's events stays, and nothing is added around exec. -/
def Obligations.StepRunsTheDecodedCommand : Prop :=
  ∀ (s : State) (w : Word) (rest : List HostEvent) (i : Instr),
    s.pending = .command w :: rest → decode w = .ok i → step s = exec i { s with pending := rest }

/-- R77, R122, R125: an ILLEGAL word is rejected with the stored cause while ERR = 1, and else takes ILLEGAL_COMMAND. -/
def Obligations.StepOnIllegalWordTakesTheFault : Prop :=
  ∀ (s : State) (w : Word) (rest : List HostEvent) (r : Illegal),
    s.pending = .command w :: rest → decode w = .error r →
    ∃ t, step s = .next t ∧
      FaultTaken (if s.err then s.errCause else .illegalCommand) { s with pending := rest } t

/-- R139, and the model's own choice (log entry 3): with no event of the host the core keeps all its state. -/
def Obligations.IdleCoreKeepsItsState : Prop :=
  ∀ s : State, s.pending = [] → step s = .next s

/-- R141, R142: the reset input, alone or together with a command, has RESET's effect on every piece of state and
gives no response; the command is not performed. -/
def Obligations.ResetInputHasTheEffectOfReset : Prop :=
  ∀ (s : State) (w : Word) (rest : List HostEvent),
    (s.pending = .resetInput :: rest ∨ s.pending = .resetWith w :: rest) →
    step s = .next { s with
      h := iv, bitcnt := 0#64, p := 0, nx := 0, phase := .ready, err := false, errCause := .none,
      rsp := none, pending := rest }

/-- R142: a reset during a command abandons it: no response, none of its effects survive, BUF is unspecified
(nothing is said of it). The fault log keeps what it held. -/
def Obligations.ResetDuringACommandAbandonsIt : Prop :=
  ∀ (s : State) (w : Word) (rest : List HostEvent), s.pending = .resetDuring w :: rest →
    ∃ t, step s = .next t ∧
      t.h = iv ∧ t.bitcnt = 0#64 ∧ t.p = 0 ∧ t.nx = 0 ∧ t.phase = .ready ∧ t.err = false ∧ t.errCause = .none ∧
      t.rsp = none ∧ t.pending = rest ∧ t.faultLog = s.faultLog

/-- R139, R143, and the model's choices of log entry 13: power-up is treated as the reset input, BUF unspecified. -/
def Obligations.PowerUpIsTreatedAsReset : Prop :=
  ∀ (s : State) (rest : List HostEvent), s.pending = .powerUp :: rest →
    ∃ t, step s = .next t ∧
      t.h = iv ∧ t.bitcnt = 0#64 ∧ t.p = 0 ∧ t.nx = 0 ∧ t.phase = .ready ∧ t.err = false ∧ t.errCause = .none ∧
      t.rsp = none ∧ t.pending = rest ∧ t.faultLog = s.faultLog

/-! ## Reset (10_state.md R18, R36; 40_accumulator.md R78) -/

/-- R78: RESET, in every state, with its one encoding. BUF is not written. -/
def Obligations.ResetFollowsItsRule : Prop :=
  encode .reset = 0x00000001#32 ∧
  (∀ w : Word, w.extractLsb' 0 4 = 0x1#4 → w ≠ 0x00000001#32 → ∃ r, decode w = .error r) ∧
  (∀ s : State, exec .reset s = .next { s with
    h := #v[0x67452301, 0xEFCDAB89, 0x98BADCFE, 0x10325476, 0xC3D2E1F0]
    bitcnt := 0#64, p := 0, nx := 0, phase := .ready, err := false, errCause := .none
    rsp := some okResponse })

/-- R36: what every piece of state the spec gives a reset value holds, in State.reset, after RESET and after the reset
input. BUF is unspecified, so nothing is said of it. -/
def Obligations.ResetLeavesTheResetValues : Prop :=
  let ResetValues (t : State) : Prop :=
    t.h = #v[0x67452301, 0xEFCDAB89, 0x98BADCFE, 0x10325476, 0xC3D2E1F0] ∧
    t.bitcnt = 0#64 ∧ t.p = 0 ∧ t.nx = 0 ∧ t.phase = .ready ∧ t.err = false ∧ t.errCause = .none
  ResetValues State.reset ∧
  (∀ s : State, ∃ t, exec .reset s = .next t ∧ ResetValues t) ∧
  (∀ (s : State) (rest : List HostEvent), s.pending = .resetInput :: rest →
    ∃ t, step s = .next t ∧ ResetValues t)

/-- R50: two RESETs leave the state of one. -/
def Obligations.ResetIsIdempotent : Prop :=
  ∀ s t : State, exec .reset s = .next t → exec .reset t = .next t

/-! ## FEED_BYTE (40_accumulator.md R81 to R84) -/

/-- R81: FEED_BYTE, its checks in order and its writes, for ERR = 0 (R126 is a statement of its own). On the 64th byte
what BUF holds afterwards is unspecified (R33), so nothing is said of it. -/
def Obligations.FeedByteFollowsItsRule : Prop :=
  (∀ b : Byte, encode (.feedByte b) = (b.setWidth 32 <<< 8) ||| 0x2#32) ∧
  ∀ (b : Byte) (s : State), s.err = false →
    (s.phase ≠ .ready → ∃ t, exec (.feedByte b) s = .next t ∧ FaultTaken .feedPhase s t) ∧
    (s.phase = .ready → 2 ^ 64 - 1 - 8 < s.bitcnt.toNat →
      ∃ t, exec (.feedByte b) s = .next t ∧ FaultTaken .lengthOverflow s t) ∧
    (s.phase = .ready → s.bitcnt.toNat ≤ 2 ^ 64 - 1 - 8 → s.p ≠ 63 →
      exec (.feedByte b) s = .next { s with
        buf := s.buf.set s.p b, bitcnt := s.bitcnt + 8#64, p := s.p + 1, rsp := some okResponse }) ∧
    (s.phase = .ready → s.bitcnt.toNat ≤ 2 ^ 64 - 1 - 8 → s.p = 63 →
      ∃ t, exec (.feedByte b) s = .next t ∧
        t.h = compress s.h (s.buf.set 63 b) ∧ t.p = 0 ∧ t.bitcnt = s.bitcnt + 8#64 ∧ t.rsp = some okResponse ∧
        t.nx = s.nx ∧ t.phase = .ready ∧ t.err = false ∧ t.errCause = s.errCause ∧
        t.faultLog = s.faultLog ∧ t.pending = s.pending)

/-- R19, R81: which cells of BUF a FEED_BYTE that leaves the buffer open changes: BUF[P] becomes b, every other cell
reads as before. -/
def Obligations.FeedByteWritesOneCell : Prop :=
  ∀ (b : Byte) (s t : State) (k : Fin 64),
    s.err = false → s.phase = .ready → s.bitcnt.toNat ≤ 2 ^ 64 - 1 - 8 → s.p ≠ 63 → exec (.feedByte b) s = .next t →
    t.buf[k] = if k = s.p then b else s.buf[k]

/-- R83: after RESET and L FEED_BYTE commands, none of them faulting, from any state: BITCNT = 8L, P = L mod 64, H is
the compression of the consecutive 64-byte groups of the message in order, and BUF[0..P-1] holds its last P bytes. -/
def Obligations.FeedingArithmetic : Prop :=
  ∀ (bytes : List Byte) (s : State), 8 * bytes.length ≤ 2 ^ 64 - 1 →
    ∃ t, performWords ((.reset :: feedCmds bytes).map encode) s = .next t ∧
      t.err = false ∧ t.phase = .ready ∧
      t.bitcnt.toNat = 8 * bytes.length ∧ t.p.val = bytes.length % 64 ∧
      t.h = (List.range (bytes.length / 64)).foldl
        (fun h g => compress h (Vector.ofFn fun k : Fin 64 => bytes.getD (64 * g + k.val) 0)) iv ∧
      (∀ k : Fin 64, k < t.p → t.buf[k] = bytes.getD (64 * (bytes.length / 64) + k.val) 0)

/-- R84, R74, R81: `feed` calls with any number of chunks, empty ones included, in the middle of a message leave H, P,
BITCNT and the pending bits that the pending bytes and the concatenation of the chunks determine, however the bytes are
split. The premise Coherent rules out a tail count in Ready; it is an invariant of its own. -/
def Obligations.ChunkingInvariance : Prop :=
  ∀ (chunks : List (List Byte)) (s : State), s.Coherent → s.err = false → s.phase = .ready →
    s.bitcnt.toNat + 8 * chunks.flatten.length ≤ 2 ^ 64 - 1 →
    let bytes := s.buf.toList.take s.p.val ++ chunks.flatten
    let groups := bytes.length / 64
    ∃ t, performWords ((chunks.flatMap feedCmds).map encode) s = .next t ∧
      t.h = (List.range groups).foldl
        (fun h g => compress h (Vector.ofFn fun k : Fin 64 => bytes.getD (64 * g + k.val) 0)) s.h ∧
      t.p.val = bytes.length % 64 ∧ t.nx = 0 ∧
      t.pendingBits = (bytes.drop (64 * groups)).flatMap byteBits ∧
      t.bitcnt.toNat = s.bitcnt.toNat + 8 * chunks.flatten.length ∧
      t.phase = .ready ∧ t.err = false ∧ t.faultLog = s.faultLog

/-! ## FEED_BITS (40_accumulator.md R85, R86) -/

/-- R85: FEED_BITS, its checks in order and its writes, for ERR = 0. -/
def Obligations.FeedBitsFollowsItsRule : Prop :=
  (∀ (b : Byte) (n : BitVec 3), encode (.feedBits b n) = (b.setWidth 32 <<< 8) ||| (n.setWidth 32 <<< 4) ||| 0x3#32) ∧
  ∀ (b : Byte) (n : BitVec 3) (s : State), s.err = false →
    (s.phase ≠ .ready → ∃ t, exec (.feedBits b n) s = .next t ∧ FaultTaken .bitsPhase s t) ∧
    (s.phase = .ready → n = 0#3 → ∃ t, exec (.feedBits b n) s = .next t ∧ FaultTaken .bitsRange s t) ∧
    (s.phase = .ready → n ≠ 0#3 → 2 ^ 64 - 1 - n.toNat < s.bitcnt.toNat →
      ∃ t, exec (.feedBits b n) s = .next t ∧ FaultTaken .lengthOverflow s t) ∧
    (s.phase = .ready → n ≠ 0#3 → s.bitcnt.toNat ≤ 2 ^ 64 - 1 - n.toNat →
      exec (.feedBits b n) s = .next { s with
        buf := s.buf.set s.p b, nx := n.toFin, bitcnt := s.bitcnt + n.setWidth 64, phase := .awaitingPadding,
        rsp := some okResponse })

/-- R32: two tail bytes with the same n high bits leave states that no later response tells apart. -/
def Obligations.TailLowBitsAreUnobservable : Prop :=
  ∀ (b b' : Byte) (n : BitVec 3) (s t t' : State),
    s.err = false → s.phase = .ready → n ≠ 0#3 → s.bitcnt.toNat ≤ 2 ^ 64 - 1 - n.toNat →
    b.toNat / 2 ^ (8 - n.toNat) = b'.toNat / 2 ^ (8 - n.toNat) →
    exec (.feedBits b n) s = .next t → exec (.feedBits b' n) s = .next t' →
    Agree t t'

/-- R86: in AwaitingPadding the next command that answers OK is FINALIZE or RESET. -/
def Obligations.TailEndsTheMessageInput : Prop :=
  ∀ (i : Instr) (s t : State) (r : Response), s.phase = .awaitingPadding →
    exec i s = .next t → t.rsp = some r → r.status = .ok → i = .finalize ∨ i = .reset

/-! ## READ_DIGEST (40_accumulator.md R88, R89; 20_memory.md R49) -/

/-- R88: READ_DIGEST for k = 0..4 and ERR = 0. Nothing but the response changes. -/
def Obligations.ReadDigestFollowsItsRule : Prop :=
  (∀ k : BitVec 3, encode (.readDigest k) = (k.setWidth 32 <<< 4) ||| 0x5#32) ∧
  (∀ k : BitVec 3, 4#3 < k → ∃ r, decode ((k.setWidth 32 <<< 4) ||| 0x5#32) = .error r) ∧
  ∀ (k : BitVec 3) (s : State), k ≤ 4#3 → s.err = false →
    (s.phase = .finalized →
      exec (.readDigest k) s = .next { s with rsp := some { status := .ok, cause := .none, rdata :=
        if k = 0#3 then s.h[0] else if k = 1#3 then s.h[1] else if k = 2#3 then s.h[2]
        else if k = 3#3 then s.h[3] else s.h[4] } }) ∧
    (s.phase ≠ .finalized → ∃ t, exec (.readDigest k) s = .next t ∧ FaultTaken .digestPhase s t)

/-- R49, R89: in Finalized no command other than RESET changes H, or leaves Finalized. -/
def Obligations.DigestStaysUntilReset : Prop :=
  ∀ (i : Instr) (s t : State), s.phase = .finalized → i ≠ .reset → exec i s = .next t →
    t.h = s.h ∧ t.phase = .finalized

/-! ## FINALIZE (41_padding.md R91 to R103) -/

/-- R91, R99, R100: FINALIZE for ERR = 0. Its one or two blocks are given cell by cell; afterwards P, NX and BUF are
unspecified (R37), so nothing is said of them. -/
def Obligations.FinalizeFollowsItsRule : Prop :=
  encode .finalize = 0x00000004#32 ∧
  ∀ s : State, s.err = false →
    (s.phase = .finalized → ∃ t, exec .finalize s = .next t ∧ FaultTaken .finalizePhase s t) ∧
    (s.phase ≠ .finalized →
      ∃ t, exec .finalize s = .next t ∧
        (8 * s.p.val + s.nx.val ≤ 447 →
          ∃ block, OneBlockLayout s block ∧ t.h = compress s.h block) ∧
        (447 < 8 * s.p.val + s.nx.val →
          ∃ first second, FirstBlockLayout s first ∧ SecondBlockLayout s second ∧
            t.h = compress (compress s.h first) second) ∧
        t.phase = .finalized ∧ t.rsp = some okResponse ∧ t.bitcnt = s.bitcnt ∧
        t.err = false ∧ t.errCause = s.errCause ∧ t.faultLog = s.faultLog ∧ t.pending = s.pending)

/-- R98: pos > 447 exactly when P >= 56, whatever the tail. -/
def Obligations.SplitDependsOnTheByteCount : Prop :=
  ∀ s : State, 447 < s.padPos ↔ 56 ≤ s.p.val

/-- R93, R95: of the tail byte the NX meaningful high bits are kept, the 1 bit follows, and the lower bits become 0. -/
def Obligations.TailByteIsMasked : Prop :=
  ∀ (nx : Fin 8) (b : Byte) (j : Fin 8),
    (markByte nx b).getMsbD j.val = if j < nx then b.getMsbD j.val else decide (j = nx)

/-- R96, R97: the digest FINALIZE leaves depends on no stale cell: not on the cells after BUF[P], nor on BUF[P]'s bits
below the tail. -/
def Obligations.FinalizeIgnoresStaleCells : Prop :=
  ∀ s s' t t' : State,
    s.err = false → s'.err = false → s.phase ≠ .finalized → s'.phase ≠ .finalized →
    s.h = s'.h → s.bitcnt = s'.bitcnt → s.p = s'.p → s.nx = s'.nx → s.pendingBits = s'.pendingBits →
    exec .finalize s = .next t → exec .finalize s' = .next t' → t.h = t'.h

/-- R102: the padding FSM, run from PAD_MARK to its end, leaves H, PHASE, the response and BITCNT as FINALIZE does. -/
def Obligations.PaddingFsmComputesFinalize : Prop :=
  ∀ s t : State, s.err = false → s.phase ≠ .finalized → exec .finalize s = .next t →
    (padFsm s).h = t.h ∧ (padFsm s).phase = t.phase ∧ (padFsm s).rsp = t.rsp ∧ (padFsm s).bitcnt = t.bitcnt

/-- R103, R87, R129: in a run without a recorded fault, FINALIZE on a core that has absorbed the message m leaves the
SHA-1 digest of m, and the run still without a fault. The premise Coherent rules out states no run reaches, where P and
NX do not fit BITCNT or a latched fault is not in the log; it is an invariant of its own. -/
def Obligations.FinalizeGivesSha1 : Prop :=
  ∀ (m : List Bool) (s : State), s.noFault → s.phase ≠ .finalized → s.Coherent → Absorbed m s →
    ∃ t, exec .finalize s = .next t ∧ t.phase = .finalized ∧ t.h = sha1 m ∧ t.noFault

/-- R76, R103, R75, R88, R129: `hash` of any message, with or without a tail, in any run without a recorded fault: every
command answers OK, the five READ_DIGEST responses are the SHA-1 digest's words in order, the pseudo-command's result is
the digest's 20 bytes, and the core is left in Ready, the run still without a fault. -/
def Obligations.HashReturnsSha1 : Prop :=
  ∀ (bytes : List Byte) (tail : Option (Byte × Nat)) (is : List Instr) (s : State), s.noFault →
    hashCmds bytes tail = some is → (messageBits bytes tail).length ≤ 2 ^ 64 - 1 →
    let d := sha1 (messageBits bytes tail)
    let ok (w : Word) : Option Response := some { status := .ok, cause := .none, rdata := w }
    responsesTo (is.map encode) s =
      List.replicate (is.length - 6) (ok 0#32) ++ [ok d[0], ok d[1], ok d[2], ok d[3], ok d[4], ok 0#32] ∧
    runHash bytes tail s = some (.ok (digestBytes d)) ∧
    ∃ t, performWords (is.map encode) s = .next t ∧ t.phase = .ready ∧ t.noFault

/-- R75, R76: the result of `digest` in every state: the bytes of H in Finalized, else the fault; the same of `hash` where
it does not give a digest: the host refuses a tail of 8 bits or more, and a message that does not fit BITCNT gives
LENGTH_OVERFLOW, the fault of every READ_DIGEST after it; and after `hash` a `digest` faults with DIGEST_PHASE. -/
def Obligations.PseudoResultsFollowTheirRules : Prop :=
  (∀ s : State, runDigest s =
    if s.err then .error s.errCause
    else if s.phase = .finalized then .ok (digestBytes s.h) else .error .digestPhase) ∧
  (∀ (bytes : List Byte) (x : Byte) (n : Nat) (s : State), 8 ≤ n → runHash bytes (some (x, n)) s = none) ∧
  (∀ (bytes : List Byte) (tail : Option (Byte × Nat)) (s : State), (∀ x n, tail = some (x, n) → n < 8) →
    2 ^ 64 - 1 < (messageBits bytes tail).length → runHash bytes tail s = some (.error .lengthOverflow)) ∧
  (∀ (bytes : List Byte) (tail : Option (Byte × Nat)) (is : List Instr) (s : State), hashCmds bytes tail = some is →
    ∃ t, performWords (is.map encode) s = .next t ∧ runDigest t = .error .digestPhase)

/-! ## The compressor (42_compressor.md) -/

/-- R105, R106: the schedule's 80 words. -/
def Obligations.ScheduleFollowsItsRules : Prop :=
  ∀ block : Buffer, (schedule block).length = 80 ∧
    (∀ t : Fin 16, (schedule block).getD t.val 0 =
      block[4 * t.val] ++ block[4 * t.val + 1] ++ block[4 * t.val + 2] ++ block[4 * t.val + 3]) ∧
    (∀ t : Nat, 16 ≤ t → t < 80 → (schedule block).getD t 0 =
      ((schedule block).getD (t - 3) 0 ^^^ (schedule block).getD (t - 8) 0 ^^^
        (schedule block).getD (t - 14) 0 ^^^ (schedule block).getD (t - 16) 0).rotateLeft 1)

/-- R108, R109, R111: one round, its function and its constant by the group of 20 it is in. -/
def Obligations.RoundFollowsItsRules : Prop :=
  ∀ (t : Nat) (w : Word) (x : Working), t < 80 →
    roundStep t w x =
      { a := x.a.rotateLeft 5 + x.e + w +
          (if t ≤ 19 then 0x5A827999 else if t ≤ 39 then 0x6ED9EBA1 else if t ≤ 59 then 0x8F1BBCDC else 0xCA62C1D6) +
          (if t ≤ 19 then (x.b &&& x.c) ||| ((~~~x.b) &&& x.d)
           else if 40 ≤ t ∧ t ≤ 59 then (x.b &&& x.c) ||| (x.b &&& x.d) ||| (x.c &&& x.d)
           else x.b ^^^ x.c ^^^ x.d)
        b := x.a, c := x.b.rotateLeft 30, d := x.c, e := x.d }

/-- R117: the source's single-block vector. -/
def Obligations.CompressOfTheAbcBlock : Prop :=
  ∀ block : Buffer,
    (∀ k : Fin 64, block[k] = if k.val = 0 then 0x61#8 else if k.val = 1 then 0x62#8 else if k.val = 2 then 0x63#8
      else if k.val = 3 then 0x80#8 else if k.val = 63 then 0x18#8 else 0x00#8) →
    compress #v[0x67452301, 0xEFCDAB89, 0x98BADCFE, 0x10325476, 0xC3D2E1F0] block =
      #v[0xA9993E36, 0x4706816A, 0xBA3E2571, 0x7850C26C, 0x9CD0D89D]

/-- R115, R108: the model's round function has R115's other form in rounds 0..19 and in rounds 40..59, and is the parity
in the rest; and a round with its sum taken in another order is the same round. -/
def Obligations.RoundFunctionFormsAgree : Prop :=
  (∀ t : Nat, t ≤ 19 → roundF t = selectXor) ∧
  (∀ t : Nat, 40 ≤ t → t ≤ 59 → roundF t = majorityShort) ∧
  (∀ t : Nat, (20 ≤ t ∧ t ≤ 39) ∨ (60 ≤ t ∧ t ≤ 79) → roundF t = parity3) ∧
  (∀ (t : Nat) (w : Word) (x : Working), roundStep t w x = wiredRound (roundF t) (roundK t) w x)

/-- R107, R118: the ITERATIVE layout, with its 16-word circular window, computes Compress. -/
def Obligations.IterativeLayoutComputesCompress : Prop :=
  ∀ (h : Digest) (block : Buffer), compressIterative h block = compress h block

/-- R118: the PIPELINED layout computes Compress. -/
def Obligations.PipelinedLayoutComputesCompress : Prop :=
  ∀ (h : Digest) (block : Buffer), compressPipelined h block = compress h block

/-- R118, R110, R115: the UNROLLED layout computes Compress. -/
def Obligations.UnrolledLayoutComputesCompress : Prop :=
  ∀ (h : Digest) (block : Buffer), compressUnrolled h block = compress h block

/-! ## Faults (60_exceptions.md) -/

/-- R126, R128: while ERR = 1, every word but RESET's, illegal words included, is rejected with the stored cause. -/
def Obligations.LatchedCoreRejectsAllButReset : Prop :=
  ∀ (w : Word) (s : State), s.err = true → decode w ≠ .ok .reset →
    ∃ t, performWord w s = .next t ∧ FaultTaken s.errCause s t

/-- R124: whenever a command's response has STATUS = FAULT, the command changed nothing but the latch, the response and
the fault log. -/
def Obligations.FaultsArePrecise : Prop :=
  ∀ (w : Word) (s t : State) (r : Response),
    performWord w s = .next t → t.rsp = some r → r.status = .fault →
    FaultTaken (if s.err then s.errCause else r.cause) s t

/-- R122: with ERR = 0, a well-formed command raises exactly the causes of its row: it faults with a cause whose
condition holds, if one holds, and answers OK if none does. -/
def Obligations.CausesFollowTheTable : Prop :=
  ∀ (i : Instr) (s : State), i.wellFormed = true → s.err = false →
    (∃ t c, exec i s = .next t ∧ FaultCondition i c s ∧ FaultTaken c s t) ∨
    ((∀ c, ¬ FaultCondition i c s) ∧
      ∃ t r, exec i s = .next t ∧ t.rsp = some r ∧ r.status = .ok ∧ r.cause = .none ∧ t.err = false)

/-- R125: where several causes apply, the first in the order stored cause, ILLEGAL_COMMAND, phase cause, BITS_RANGE,
LENGTH_OVERFLOW is reported. -/
def Obligations.FaultPriority : Prop :=
  (∀ (w : Word) (s : State), s.err = true → decode w ≠ .ok .reset →
    ∃ t, performWord w s = .next t ∧ t.rsp = some (faultResponse s.errCause)) ∧
  (∀ (w : Word) (s : State) (r : Illegal), s.err = false → decode w = .error r →
    ∃ t, performWord w s = .next t ∧ t.rsp = some (faultResponse .illegalCommand)) ∧
  (∀ (b : Byte) (s : State), s.err = false → s.phase ≠ .ready →
    ∃ t, exec (.feedByte b) s = .next t ∧ t.rsp = some (faultResponse .feedPhase)) ∧
  (∀ (b : Byte) (n : BitVec 3) (s : State), s.err = false → s.phase ≠ .ready →
    ∃ t, exec (.feedBits b n) s = .next t ∧ t.rsp = some (faultResponse .bitsPhase)) ∧
  (∀ (b : Byte) (s : State), s.err = false → s.phase = .ready →
    ∃ t, exec (.feedBits b 0#3) s = .next t ∧ t.rsp = some (faultResponse .bitsRange)) ∧
  (∀ s : State, s.err = false → s.phase = .finalized →
    ∃ t, exec .finalize s = .next t ∧ t.rsp = some (faultResponse .finalizePhase)) ∧
  (∀ (k : BitVec 3) (s : State), s.err = false → k ≤ 4#3 → s.phase ≠ .finalized →
    ∃ t, exec (.readDigest k) s = .next t ∧ t.rsp = some (faultResponse .digestPhase)) ∧
  (∀ (b : Byte) (s : State), s.err = false → s.phase = .ready → 2 ^ 64 - 1 < s.bitcnt.toNat + 8 →
    ∃ t, exec (.feedByte b) s = .next t ∧ t.rsp = some (faultResponse .lengthOverflow)) ∧
  (∀ (b : Byte) (n : BitVec 3) (s : State), s.err = false → s.phase = .ready → n ≠ 0#3 →
    2 ^ 64 - 1 < s.bitcnt.toNat + n.toNat →
    ∃ t, exec (.feedBits b n) s = .next t ∧ t.rsp = some (faultResponse .lengthOverflow))

/-- R127: ERR goes from 1 to 0 only by RESET or by a reset of the platform, and then a new message starts. -/
def Obligations.OnlyResetLeavesAFault : Prop :=
  ∀ s t : State, s.err = true → step s = .next t → t.err = false →
    (∃ e rest, s.pending = e :: rest ∧
      (e = .command 0x00000001#32 ∨ e = .resetInput ∨ (∃ w, e = .resetWith w) ∨ (∃ w, e = .resetDuring w) ∨ e = .powerUp)) ∧
    t.errCause = .none ∧ t.phase = .ready ∧ t.h = iv ∧ t.bitcnt = 0#64 ∧ t.p = 0 ∧ t.nx = 0

/-- R39: the fault log is set by the first fault and never cleared, not even by a reset: once it holds a cause, every
step keeps it; and a step whose response is a fault, from a state without one, leaves its cause there. -/
def Obligations.FaultLogKeepsTheFirstFault : Prop :=
  (∀ (s t : State) (c : Cause), step s = .next t → s.faultLog = some c → t.faultLog = some c) ∧
  (∀ (w : Word) (s t : State) (r : Response), s.faultLog = none → performWord w s = .next t → t.rsp = some r →
    (r.status = .fault → t.faultLog = some r.cause) ∧ (r.status = .ok → t.faultLog = none))

/-- R156, R57: every command word is answered: it gives a next state with a response, from every state. -/
def Obligations.EveryCommandIsAnswered : Prop :=
  ∀ (w : Word) (s : State), ∃ t r, performWord w s = .next t ∧ t.rsp = some r

/-- R66: the packed response; CAUSE is NONE on OK; RDATA is H[k] in an OK READ_DIGEST's response and 0 in every other. -/
def Obligations.ResponseFormat : Prop :=
  (∀ r : Response,
    r.pack.extractLsb' 0 32 = r.rdata ∧ r.pack.extractLsb' 32 4 = r.cause.code ∧
    r.pack.extractLsb' 36 1 = r.status.code ∧ r.pack.extractLsb' 37 27 = 0#27) ∧
  Status.ok.code = 0#1 ∧ Status.fault.code = 1#1 ∧
  (∀ (w : Word) (s t : State) (r : Response), performWord w s = .next t → t.rsp = some r →
    (r.status = .ok → r.cause = .none) ∧
    (∀ k, decode w = .ok (.readDigest k) → r.status = .ok →
      ∃ i : Fin 5, i.val = k.toNat ∧ r.rdata = s.h[i]) ∧
    ((r.status = .fault ∨ ∀ k, decode w ≠ .ok (.readDigest k)) → r.rdata = 0#32))

/-- R121: the cause codes; none of 0x8..0xF is produced, and no fault is reported with NONE. The premise Coherent rules
out a latched fault without a cause; it is an invariant of its own. -/
def Obligations.CauseCodes : Prop :=
  Cause.none.code = 0x0#4 ∧ Cause.illegalCommand.code = 0x1#4 ∧ Cause.feedPhase.code = 0x2#4 ∧
  Cause.bitsPhase.code = 0x3#4 ∧ Cause.bitsRange.code = 0x4#4 ∧ Cause.finalizePhase.code = 0x5#4 ∧
  Cause.digestPhase.code = 0x6#4 ∧ Cause.lengthOverflow.code = 0x7#4 ∧
  (∀ c : Cause, c.code < 0x8#4) ∧
  (∀ (w : Word) (s t : State) (r : Response), s.Coherent → performWord w s = .next t → t.rsp = some r →
    r.status = .fault → r.cause ≠ .none)

/-! ## Invariants and whole-machine rules -/

/-- R25: PHASE changes by the table's transitions and no others, every other pair faults and leaves PHASE unchanged;
and each of the table's transitions takes place (with ERR = 0, and where the bit counter has room). -/
def Obligations.PhaseTransitionsFollowTheTable : Prop :=
  (∀ (i : Instr) (s t : State), exec i s = .next t →
    i = .reset ∧ t.phase = .ready ∨
    (∃ b, i = .feedByte b) ∧ s.phase = .ready ∧ t.phase = .ready ∨
    (∃ b n, i = .feedBits b n ∧ n ≠ 0#3) ∧ s.phase = .ready ∧ t.phase = .awaitingPadding ∨
    i = .finalize ∧ s.phase = .ready ∧ t.phase = .finalized ∨
    i = .finalize ∧ s.phase = .awaitingPadding ∧ t.phase = .finalized ∨
    (∃ k, i = .readDigest k) ∧ s.phase = .finalized ∧ t.phase = .finalized ∨
    t.phase = s.phase ∧ ∃ c, t.rsp = some (faultResponse c)) ∧
  (∀ s : State, ∃ t, exec .reset s = .next t ∧ t.phase = .ready ∧ t.rsp = some okResponse) ∧
  (∀ (b : Byte) (s : State), s.err = false → s.phase = .ready → s.bitcnt.toNat + 8 ≤ 2 ^ 64 - 1 →
    ∃ t, exec (.feedByte b) s = .next t ∧ t.phase = .ready ∧ t.rsp = some okResponse) ∧
  (∀ (b : Byte) (n : BitVec 3) (s : State), s.err = false → s.phase = .ready → n ≠ 0#3 →
    s.bitcnt.toNat + n.toNat ≤ 2 ^ 64 - 1 →
    ∃ t, exec (.feedBits b n) s = .next t ∧ t.phase = .awaitingPadding ∧ t.rsp = some okResponse) ∧
  (∀ s : State, s.err = false → s.phase ≠ .finalized →
    ∃ t, exec .finalize s = .next t ∧ t.phase = .finalized ∧ t.rsp = some okResponse) ∧
  (∀ (k : BitVec 3) (s : State), s.err = false → s.phase = .finalized → k ≤ 4#3 →
    ∃ t r, exec (.readDigest k) s = .next t ∧ t.phase = .finalized ∧ t.rsp = some r ∧ r.status = .ok)

/-- R27 with the latch's and the response's rules: every step keeps Coherent, from every state that has it. -/
def Obligations.CoherenceIsKept : Prop :=
  ∀ s t : State, s.Coherent → step s = .next t → t.Coherent

/-- R27, R36: Coherent holds right after reset. -/
def Obligations.CoherenceHoldsAtReset : Prop := State.reset.Coherent

/-- R39, R124, R129: a step that leaves the run without a recorded fault leaves ERR = 0, and its response, if there is
one, is OK: no step faults and leaves the log empty. The premise Coherent rules out a latched fault that is not in the
log; it is an invariant of its own. -/
def Obligations.CleanStepIsNotLatched : Prop :=
  ∀ s t : State, s.Coherent → s.noFault → step s = .next t → t.noFault →
    t.err = false ∧ t.errCause = .none ∧ ∀ r, t.rsp = some r → r.status = .ok ∧ r.cause = .none

/-- R101, R98: H after FINALIZE is the IV compressed with floor((BITCNT + 64) / 512) + 1 blocks in order: the whole blocks
fed before and FINALIZE's own, which are two exactly when pos > 447 and else one, and which complete the message to the
padded message. -/
def Obligations.CompressionCountOfAMessage : Prop :=
  ∀ (fed : List Buffer) (m : List Bool) (s : State),
    s.noFault → s.phase ≠ .finalized → s.Coherent → AbsorbedAs fed m s →
    ∃ (t : State) (last : List Buffer), exec .finalize s = .next t ∧
      t.h = (fed ++ last).foldl compress iv ∧
      last.length = (if 447 < s.padPos then 2 else 1) ∧
      (fed ++ last).length = (t.bitcnt.toNat + 64) / 512 + 1 ∧
      (fed ++ last).flatMap blockBits = paddedBits m

/-- R87, R103, R129: every step keeps Sound: in a run without a recorded fault, while a message is fed the core has
absorbed one, and in Finalized H is the SHA-1 digest of a message of BITCNT bits. -/
def Obligations.SoundnessIsKept : Prop :=
  ∀ s t : State, s.Sound → step s = .next t → t.Sound

/-- R36: Sound holds right after reset, with the empty message. -/
def Obligations.SoundnessHoldsAtReset : Prop := State.reset.Sound

/-- R32, R33, R37: what no response reveals never reaches one: from two states that agree, with the same host events
and the same last response, a step leaves states that agree, with the same response. -/
def Obligations.HiddenStateStaysHidden : Prop :=
  ∀ s s' t t' : State, s.Coherent → s'.Coherent →
    Agree s s' → s.pending = s'.pending → s.rsp = s'.rsp → step s = .next t → step s' = .next t' →
    Agree t t' ∧ t.pending = t'.pending ∧ t.rsp = t'.rsp

/-- R79: after RESET every command sequence gives the same responses, whatever came before, and those are the responses
of a core just out of the reset input, whatever bytes its BUF holds (R146). -/
def Obligations.ResetErasesHistory : Prop :=
  (∀ (s s' : State) (ws : List Word), responsesTo (0x00000001#32 :: ws) s = responsesTo (0x00000001#32 :: ws) s') ∧
  (∀ (s : State) (buf : Buffer) (ws : List Word),
    responsesTo (0x00000001#32 :: ws) s = some okResponse :: responsesTo ws { State.reset with buf := buf })

/-! ## The platform and the host's syntax -/

/-- R40, R56, R137: a step of one core leaves every other core as it was, and steps of two cores may be taken in either
order. -/
def Obligations.CoresAreIndependent : Prop :=
  ∀ (n : Nat) (i j : Fin n) (x y z : Platform n), i ≠ j →
    Platform.stepAt i x = .next y → Platform.stepAt j y = .next z →
    y[j] = x[j] ∧ step x[i] = .next y[i] ∧
    ∃ y', Platform.stepAt j x = .next y' ∧ Platform.stepAt i y' = .next z

/-- R73: the five lines of the assembler's table, for every operand in range, and the refusal of every operand out of
range. -/
def Obligations.AssemblerFollowsTheTable : Prop :=
  assembleOps ['r', 'e', 's', 'e', 't'] [] = some [.reset] ∧
  assembleOps ['f', 'i', 'n', 'a', 'l'] [] = some [.finalize] ∧
  (∀ b : Nat, assembleOps ['f', 'e', 'e', 'd', 'b'] [b] = if b ≤ 255 then some [.feedByte (BitVec.ofNat 8 b)] else none) ∧
  (∀ b n : Nat, assembleOps ['f', 'e', 'e', 'd', 'x'] [b, n] =
    if b ≤ 255 ∧ n ≤ 7 then some [.feedBits (BitVec.ofNat 8 b) (BitVec.ofNat 3 n)] else none) ∧
  (∀ k : Nat, assembleOps ['r', 'd', 'd', 'i', 'g'] [k] = if k ≤ 4 then some [.readDigest (BitVec.ofNat 3 k)] else none)
end

