-- ==== Sys2Proof/Laws/State.lean ====
section
/-! SUPPORT. One lemma per field per named update of the state, so that no proof unfolds a record update. -/

namespace Sys2Proof.Machine

/-! ## withH -/

@[simp] theorem State.withH_h (d : Digest) (s : State) : (s.withH d).h = d := rfl
@[simp] theorem State.withH_buf (d : Digest) (s : State) : (s.withH d).buf = s.buf := rfl
@[simp] theorem State.withH_p (d : Digest) (s : State) : (s.withH d).p = s.p := rfl
@[simp] theorem State.withH_nx (d : Digest) (s : State) : (s.withH d).nx = s.nx := rfl
@[simp] theorem State.withH_bitcnt (d : Digest) (s : State) : (s.withH d).bitcnt = s.bitcnt := rfl
@[simp] theorem State.withH_phase (d : Digest) (s : State) : (s.withH d).phase = s.phase := rfl
@[simp] theorem State.withH_err (d : Digest) (s : State) : (s.withH d).err = s.err := rfl
@[simp] theorem State.withH_errCause (d : Digest) (s : State) : (s.withH d).errCause = s.errCause := rfl
@[simp] theorem State.withH_rsp (d : Digest) (s : State) : (s.withH d).rsp = s.rsp := rfl
@[simp] theorem State.withH_faultLog (d : Digest) (s : State) : (s.withH d).faultLog = s.faultLog := rfl
@[simp] theorem State.withH_pending (d : Digest) (s : State) : (s.withH d).pending = s.pending := rfl
@[simp] theorem State.withH_draws (d : Digest) (s : State) : (s.withH d).draws = s.draws := rfl

/-! ## withBuf -/

@[simp] theorem State.withBuf_h (v : Buffer) (s : State) : (s.withBuf v).h = s.h := rfl
@[simp] theorem State.withBuf_buf (v : Buffer) (s : State) : (s.withBuf v).buf = v := rfl
@[simp] theorem State.withBuf_p (v : Buffer) (s : State) : (s.withBuf v).p = s.p := rfl
@[simp] theorem State.withBuf_nx (v : Buffer) (s : State) : (s.withBuf v).nx = s.nx := rfl
@[simp] theorem State.withBuf_bitcnt (v : Buffer) (s : State) : (s.withBuf v).bitcnt = s.bitcnt := rfl
@[simp] theorem State.withBuf_phase (v : Buffer) (s : State) : (s.withBuf v).phase = s.phase := rfl
@[simp] theorem State.withBuf_err (v : Buffer) (s : State) : (s.withBuf v).err = s.err := rfl
@[simp] theorem State.withBuf_errCause (v : Buffer) (s : State) : (s.withBuf v).errCause = s.errCause := rfl
@[simp] theorem State.withBuf_rsp (v : Buffer) (s : State) : (s.withBuf v).rsp = s.rsp := rfl
@[simp] theorem State.withBuf_faultLog (v : Buffer) (s : State) : (s.withBuf v).faultLog = s.faultLog := rfl
@[simp] theorem State.withBuf_pending (v : Buffer) (s : State) : (s.withBuf v).pending = s.pending := rfl
@[simp] theorem State.withBuf_draws (v : Buffer) (s : State) : (s.withBuf v).draws = s.draws := rfl

/-! ## withP -/

@[simp] theorem State.withP_h (n : Fin 64) (s : State) : (s.withP n).h = s.h := rfl
@[simp] theorem State.withP_buf (n : Fin 64) (s : State) : (s.withP n).buf = s.buf := rfl
@[simp] theorem State.withP_p (n : Fin 64) (s : State) : (s.withP n).p = n := rfl
@[simp] theorem State.withP_nx (n : Fin 64) (s : State) : (s.withP n).nx = s.nx := rfl
@[simp] theorem State.withP_bitcnt (n : Fin 64) (s : State) : (s.withP n).bitcnt = s.bitcnt := rfl
@[simp] theorem State.withP_phase (n : Fin 64) (s : State) : (s.withP n).phase = s.phase := rfl
@[simp] theorem State.withP_err (n : Fin 64) (s : State) : (s.withP n).err = s.err := rfl
@[simp] theorem State.withP_errCause (n : Fin 64) (s : State) : (s.withP n).errCause = s.errCause := rfl
@[simp] theorem State.withP_rsp (n : Fin 64) (s : State) : (s.withP n).rsp = s.rsp := rfl
@[simp] theorem State.withP_faultLog (n : Fin 64) (s : State) : (s.withP n).faultLog = s.faultLog := rfl
@[simp] theorem State.withP_pending (n : Fin 64) (s : State) : (s.withP n).pending = s.pending := rfl
@[simp] theorem State.withP_draws (n : Fin 64) (s : State) : (s.withP n).draws = s.draws := rfl

/-! ## closed -/

@[simp] theorem State.closed_h (s : State) : s.closed.h = s.h := rfl
@[simp] theorem State.closed_buf (s : State) : s.closed.buf = s.buf := rfl
@[simp] theorem State.closed_p (s : State) : s.closed.p = s.p := rfl
@[simp] theorem State.closed_nx (s : State) : s.closed.nx = s.nx := rfl
@[simp] theorem State.closed_bitcnt (s : State) : s.closed.bitcnt = s.bitcnt := rfl
@[simp] theorem State.closed_phase (s : State) : s.closed.phase = .finalized := rfl
@[simp] theorem State.closed_err (s : State) : s.closed.err = s.err := rfl
@[simp] theorem State.closed_errCause (s : State) : s.closed.errCause = s.errCause := rfl
@[simp] theorem State.closed_rsp (s : State) : s.closed.rsp = s.rsp := rfl
@[simp] theorem State.closed_faultLog (s : State) : s.closed.faultLog = s.faultLog := rfl
@[simp] theorem State.closed_pending (s : State) : s.closed.pending = s.pending := rfl
@[simp] theorem State.closed_draws (s : State) : s.closed.draws = s.draws := rfl

/-! ## responded -/

@[simp] theorem State.responded_h (w : Word) (s : State) : (s.responded w).h = s.h := rfl
@[simp] theorem State.responded_buf (w : Word) (s : State) : (s.responded w).buf = s.buf := rfl
@[simp] theorem State.responded_p (w : Word) (s : State) : (s.responded w).p = s.p := rfl
@[simp] theorem State.responded_nx (w : Word) (s : State) : (s.responded w).nx = s.nx := rfl
@[simp] theorem State.responded_bitcnt (w : Word) (s : State) : (s.responded w).bitcnt = s.bitcnt := rfl
@[simp] theorem State.responded_phase (w : Word) (s : State) : (s.responded w).phase = s.phase := rfl
@[simp] theorem State.responded_err (w : Word) (s : State) : (s.responded w).err = s.err := rfl
@[simp] theorem State.responded_errCause (w : Word) (s : State) : (s.responded w).errCause = s.errCause := rfl
@[simp] theorem State.responded_rsp (w : Word) (s : State) : (s.responded w).rsp = some { status := .ok, cause := .none, rdata := w } := rfl
@[simp] theorem State.responded_faultLog (w : Word) (s : State) : (s.responded w).faultLog = s.faultLog := rfl
@[simp] theorem State.responded_pending (w : Word) (s : State) : (s.responded w).pending = s.pending := rfl
@[simp] theorem State.responded_draws (w : Word) (s : State) : (s.responded w).draws = s.draws := rfl

/-! ## faulted -/

@[simp] theorem State.faulted_h (c : Cause) (s : State) : (s.faulted c).h = s.h := rfl
@[simp] theorem State.faulted_buf (c : Cause) (s : State) : (s.faulted c).buf = s.buf := rfl
@[simp] theorem State.faulted_p (c : Cause) (s : State) : (s.faulted c).p = s.p := rfl
@[simp] theorem State.faulted_nx (c : Cause) (s : State) : (s.faulted c).nx = s.nx := rfl
@[simp] theorem State.faulted_bitcnt (c : Cause) (s : State) : (s.faulted c).bitcnt = s.bitcnt := rfl
@[simp] theorem State.faulted_phase (c : Cause) (s : State) : (s.faulted c).phase = s.phase := rfl
@[simp] theorem State.faulted_err (c : Cause) (s : State) : (s.faulted c).err = true := rfl
@[simp] theorem State.faulted_errCause (c : Cause) (s : State) : (s.faulted c).errCause = s.reported c := rfl
@[simp] theorem State.faulted_rsp (c : Cause) (s : State) : (s.faulted c).rsp = some { status := .fault, cause := s.reported c, rdata := 0#32 } := rfl
@[simp] theorem State.faulted_faultLog (c : Cause) (s : State) : (s.faulted c).faultLog = some (s.faultLog.getD (s.reported c)) := rfl
@[simp] theorem State.faulted_pending (c : Cause) (s : State) : (s.faulted c).pending = s.pending := rfl
@[simp] theorem State.faulted_draws (c : Cause) (s : State) : (s.faulted c).draws = s.draws := rfl

/-! ## toReset -/

@[simp] theorem State.toReset_h (s : State) : s.toReset.h = iv := rfl
@[simp] theorem State.toReset_buf (s : State) : s.toReset.buf = s.buf := rfl
@[simp] theorem State.toReset_p (s : State) : s.toReset.p = 0 := rfl
@[simp] theorem State.toReset_nx (s : State) : s.toReset.nx = 0 := rfl
@[simp] theorem State.toReset_bitcnt (s : State) : s.toReset.bitcnt = 0#64 := rfl
@[simp] theorem State.toReset_phase (s : State) : s.toReset.phase = .ready := rfl
@[simp] theorem State.toReset_err (s : State) : s.toReset.err = false := rfl
@[simp] theorem State.toReset_errCause (s : State) : s.toReset.errCause = .none := rfl
@[simp] theorem State.toReset_rsp (s : State) : s.toReset.rsp = s.rsp := rfl
@[simp] theorem State.toReset_faultLog (s : State) : s.toReset.faultLog = s.faultLog := rfl
@[simp] theorem State.toReset_pending (s : State) : s.toReset.pending = s.pending := rfl
@[simp] theorem State.toReset_draws (s : State) : s.toReset.draws = s.draws := rfl

/-! ## silent -/

@[simp] theorem State.silent_h (s : State) : s.silent.h = s.h := rfl
@[simp] theorem State.silent_buf (s : State) : s.silent.buf = s.buf := rfl
@[simp] theorem State.silent_p (s : State) : s.silent.p = s.p := rfl
@[simp] theorem State.silent_nx (s : State) : s.silent.nx = s.nx := rfl
@[simp] theorem State.silent_bitcnt (s : State) : s.silent.bitcnt = s.bitcnt := rfl
@[simp] theorem State.silent_phase (s : State) : s.silent.phase = s.phase := rfl
@[simp] theorem State.silent_err (s : State) : s.silent.err = s.err := rfl
@[simp] theorem State.silent_errCause (s : State) : s.silent.errCause = s.errCause := rfl
@[simp] theorem State.silent_rsp (s : State) : s.silent.rsp = none := rfl
@[simp] theorem State.silent_faultLog (s : State) : s.silent.faultLog = s.faultLog := rfl
@[simp] theorem State.silent_pending (s : State) : s.silent.pending = s.pending := rfl
@[simp] theorem State.silent_draws (s : State) : s.silent.draws = s.draws := rfl

/-! ## loseBuf -/

@[simp] theorem State.loseBuf_h (s : State) : s.loseBuf.h = s.h := rfl
@[simp] theorem State.loseBuf_buf (s : State) : s.loseBuf.buf = Config.staleBuf s.draws := rfl
@[simp] theorem State.loseBuf_p (s : State) : s.loseBuf.p = s.p := rfl
@[simp] theorem State.loseBuf_nx (s : State) : s.loseBuf.nx = s.nx := rfl
@[simp] theorem State.loseBuf_bitcnt (s : State) : s.loseBuf.bitcnt = s.bitcnt := rfl
@[simp] theorem State.loseBuf_phase (s : State) : s.loseBuf.phase = s.phase := rfl
@[simp] theorem State.loseBuf_err (s : State) : s.loseBuf.err = s.err := rfl
@[simp] theorem State.loseBuf_errCause (s : State) : s.loseBuf.errCause = s.errCause := rfl
@[simp] theorem State.loseBuf_rsp (s : State) : s.loseBuf.rsp = s.rsp := rfl
@[simp] theorem State.loseBuf_faultLog (s : State) : s.loseBuf.faultLog = s.faultLog := rfl
@[simp] theorem State.loseBuf_pending (s : State) : s.loseBuf.pending = s.pending := rfl
@[simp] theorem State.loseBuf_draws (s : State) : s.loseBuf.draws = s.draws + 1 := rfl

/-! ## losePending -/

@[simp] theorem State.losePending_h (s : State) : s.losePending.h = s.h := rfl
@[simp] theorem State.losePending_buf (s : State) : s.losePending.buf = Config.staleBuf s.draws := rfl
@[simp] theorem State.losePending_p (s : State) : s.losePending.p = Config.staleP s.draws := rfl
@[simp] theorem State.losePending_nx (s : State) : s.losePending.nx = Config.staleNX s.draws := rfl
@[simp] theorem State.losePending_bitcnt (s : State) : s.losePending.bitcnt = s.bitcnt := rfl
@[simp] theorem State.losePending_phase (s : State) : s.losePending.phase = s.phase := rfl
@[simp] theorem State.losePending_err (s : State) : s.losePending.err = s.err := rfl
@[simp] theorem State.losePending_errCause (s : State) : s.losePending.errCause = s.errCause := rfl
@[simp] theorem State.losePending_rsp (s : State) : s.losePending.rsp = s.rsp := rfl
@[simp] theorem State.losePending_faultLog (s : State) : s.losePending.faultLog = s.faultLog := rfl
@[simp] theorem State.losePending_pending (s : State) : s.losePending.pending = s.pending := rfl
@[simp] theorem State.losePending_draws (s : State) : s.losePending.draws = s.draws + 1 := rfl

/-! ## takeByte -/

@[simp] theorem State.takeByte_h (b : Byte) (s : State) : (s.takeByte b).h = s.h := rfl
@[simp] theorem State.takeByte_buf (b : Byte) (s : State) : (s.takeByte b).buf = s.buf.set s.p b := rfl
@[simp] theorem State.takeByte_p (b : Byte) (s : State) : (s.takeByte b).p = s.p := rfl
@[simp] theorem State.takeByte_nx (b : Byte) (s : State) : (s.takeByte b).nx = s.nx := rfl
@[simp] theorem State.takeByte_bitcnt (b : Byte) (s : State) : (s.takeByte b).bitcnt = s.bitcnt + 8#64 := rfl
@[simp] theorem State.takeByte_phase (b : Byte) (s : State) : (s.takeByte b).phase = s.phase := rfl
@[simp] theorem State.takeByte_err (b : Byte) (s : State) : (s.takeByte b).err = s.err := rfl
@[simp] theorem State.takeByte_errCause (b : Byte) (s : State) : (s.takeByte b).errCause = s.errCause := rfl
@[simp] theorem State.takeByte_rsp (b : Byte) (s : State) : (s.takeByte b).rsp = s.rsp := rfl
@[simp] theorem State.takeByte_faultLog (b : Byte) (s : State) : (s.takeByte b).faultLog = s.faultLog := rfl
@[simp] theorem State.takeByte_pending (b : Byte) (s : State) : (s.takeByte b).pending = s.pending := rfl
@[simp] theorem State.takeByte_draws (b : Byte) (s : State) : (s.takeByte b).draws = s.draws := rfl

/-! ## fedBits -/

@[simp] theorem State.fedBits_h (b : Byte) (n : Fin 8) (s : State) : (s.fedBits b n).h = s.h := rfl
@[simp] theorem State.fedBits_buf (b : Byte) (n : Fin 8) (s : State) : (s.fedBits b n).buf = s.buf.set s.p b := rfl
@[simp] theorem State.fedBits_p (b : Byte) (n : Fin 8) (s : State) : (s.fedBits b n).p = s.p := rfl
@[simp] theorem State.fedBits_nx (b : Byte) (n : Fin 8) (s : State) : (s.fedBits b n).nx = n := rfl
@[simp] theorem State.fedBits_bitcnt (b : Byte) (n : Fin 8) (s : State) : (s.fedBits b n).bitcnt = s.bitcnt + BitVec.ofNat 64 n.val := rfl
@[simp] theorem State.fedBits_phase (b : Byte) (n : Fin 8) (s : State) : (s.fedBits b n).phase = .awaitingPadding := rfl
@[simp] theorem State.fedBits_err (b : Byte) (n : Fin 8) (s : State) : (s.fedBits b n).err = s.err := rfl
@[simp] theorem State.fedBits_errCause (b : Byte) (n : Fin 8) (s : State) : (s.fedBits b n).errCause = s.errCause := rfl
@[simp] theorem State.fedBits_rsp (b : Byte) (n : Fin 8) (s : State) : (s.fedBits b n).rsp = s.rsp := rfl
@[simp] theorem State.fedBits_faultLog (b : Byte) (n : Fin 8) (s : State) : (s.fedBits b n).faultLog = s.faultLog := rfl
@[simp] theorem State.fedBits_pending (b : Byte) (n : Fin 8) (s : State) : (s.fedBits b n).pending = s.pending := rfl
@[simp] theorem State.fedBits_draws (b : Byte) (n : Fin 8) (s : State) : (s.fedBits b n).draws = s.draws := rfl

/-! ## compressed -/

@[simp] theorem State.compressed_h (s : State) : s.compressed.h = compress s.h s.buf := State.withH_h _ _
@[simp] theorem State.compressed_buf (s : State) : s.compressed.buf = s.buf := State.withH_buf _ _
@[simp] theorem State.compressed_p (s : State) : s.compressed.p = s.p := State.withH_p _ _
@[simp] theorem State.compressed_nx (s : State) : s.compressed.nx = s.nx := State.withH_nx _ _
@[simp] theorem State.compressed_bitcnt (s : State) : s.compressed.bitcnt = s.bitcnt := State.withH_bitcnt _ _
@[simp] theorem State.compressed_phase (s : State) : s.compressed.phase = s.phase := State.withH_phase _ _
@[simp] theorem State.compressed_err (s : State) : s.compressed.err = s.err := State.withH_err _ _
@[simp] theorem State.compressed_errCause (s : State) : s.compressed.errCause = s.errCause := State.withH_errCause _ _
@[simp] theorem State.compressed_rsp (s : State) : s.compressed.rsp = s.rsp := State.withH_rsp _ _
@[simp] theorem State.compressed_faultLog (s : State) : s.compressed.faultLog = s.faultLog := State.withH_faultLog _ _
@[simp] theorem State.compressed_pending (s : State) : s.compressed.pending = s.pending := State.withH_pending _ _
@[simp] theorem State.compressed_draws (s : State) : s.compressed.draws = s.draws := State.withH_draws _ _

/-! ## padMarked -/

@[simp] theorem State.padMarked_h (s : State) : s.padMarked.h = s.h := State.withBuf_h _ _
@[simp] theorem State.padMarked_buf (s : State) : s.padMarked.buf = zeroAfter s.p (s.buf.set s.p (markByte s.nx s.buf[s.p])) := State.withBuf_buf _ _
@[simp] theorem State.padMarked_p (s : State) : s.padMarked.p = s.p := State.withBuf_p _ _
@[simp] theorem State.padMarked_nx (s : State) : s.padMarked.nx = s.nx := State.withBuf_nx _ _
@[simp] theorem State.padMarked_bitcnt (s : State) : s.padMarked.bitcnt = s.bitcnt := State.withBuf_bitcnt _ _
@[simp] theorem State.padMarked_phase (s : State) : s.padMarked.phase = s.phase := State.withBuf_phase _ _
@[simp] theorem State.padMarked_err (s : State) : s.padMarked.err = s.err := State.withBuf_err _ _
@[simp] theorem State.padMarked_errCause (s : State) : s.padMarked.errCause = s.errCause := State.withBuf_errCause _ _
@[simp] theorem State.padMarked_rsp (s : State) : s.padMarked.rsp = s.rsp := State.withBuf_rsp _ _
@[simp] theorem State.padMarked_faultLog (s : State) : s.padMarked.faultLog = s.faultLog := State.withBuf_faultLog _ _
@[simp] theorem State.padMarked_pending (s : State) : s.padMarked.pending = s.pending := State.withBuf_pending _ _
@[simp] theorem State.padMarked_draws (s : State) : s.padMarked.draws = s.draws := State.withBuf_draws _ _

/-! ## padCleared -/

@[simp] theorem State.padCleared_h (s : State) : s.padCleared.h = s.h := State.withBuf_h _ _
@[simp] theorem State.padCleared_buf (s : State) : s.padCleared.buf = zeroBuf := State.withBuf_buf _ _
@[simp] theorem State.padCleared_p (s : State) : s.padCleared.p = s.p := State.withBuf_p _ _
@[simp] theorem State.padCleared_nx (s : State) : s.padCleared.nx = s.nx := State.withBuf_nx _ _
@[simp] theorem State.padCleared_bitcnt (s : State) : s.padCleared.bitcnt = s.bitcnt := State.withBuf_bitcnt _ _
@[simp] theorem State.padCleared_phase (s : State) : s.padCleared.phase = s.phase := State.withBuf_phase _ _
@[simp] theorem State.padCleared_err (s : State) : s.padCleared.err = s.err := State.withBuf_err _ _
@[simp] theorem State.padCleared_errCause (s : State) : s.padCleared.errCause = s.errCause := State.withBuf_errCause _ _
@[simp] theorem State.padCleared_rsp (s : State) : s.padCleared.rsp = s.rsp := State.withBuf_rsp _ _
@[simp] theorem State.padCleared_faultLog (s : State) : s.padCleared.faultLog = s.faultLog := State.withBuf_faultLog _ _
@[simp] theorem State.padCleared_pending (s : State) : s.padCleared.pending = s.pending := State.withBuf_pending _ _
@[simp] theorem State.padCleared_draws (s : State) : s.padCleared.draws = s.draws := State.withBuf_draws _ _

/-! ## padLength -/

@[simp] theorem State.padLength_h (s : State) : s.padLength.h = s.h := State.withBuf_h _ _
@[simp] theorem State.padLength_buf (s : State) : s.padLength.buf = memWrite 56 (be64 s.bitcnt) s.buf := State.withBuf_buf _ _
@[simp] theorem State.padLength_p (s : State) : s.padLength.p = s.p := State.withBuf_p _ _
@[simp] theorem State.padLength_nx (s : State) : s.padLength.nx = s.nx := State.withBuf_nx _ _
@[simp] theorem State.padLength_bitcnt (s : State) : s.padLength.bitcnt = s.bitcnt := State.withBuf_bitcnt _ _
@[simp] theorem State.padLength_phase (s : State) : s.padLength.phase = s.phase := State.withBuf_phase _ _
@[simp] theorem State.padLength_err (s : State) : s.padLength.err = s.err := State.withBuf_err _ _
@[simp] theorem State.padLength_errCause (s : State) : s.padLength.errCause = s.errCause := State.withBuf_errCause _ _
@[simp] theorem State.padLength_rsp (s : State) : s.padLength.rsp = s.rsp := State.withBuf_rsp _ _
@[simp] theorem State.padLength_faultLog (s : State) : s.padLength.faultLog = s.faultLog := State.withBuf_faultLog _ _
@[simp] theorem State.padLength_pending (s : State) : s.padLength.pending = s.pending := State.withBuf_pending _ _
@[simp] theorem State.padLength_draws (s : State) : s.padLength.draws = s.draws := State.withBuf_draws _ _

/-! ## emptied -/

@[simp] theorem State.emptied_h (s : State) : s.emptied.h = compress s.h s.buf := by simp [State.emptied]
@[simp] theorem State.emptied_buf (s : State) : s.emptied.buf = Config.staleBuf s.draws := by simp [State.emptied]
@[simp] theorem State.emptied_p (s : State) : s.emptied.p = 0 := by simp [State.emptied]
@[simp] theorem State.emptied_nx (s : State) : s.emptied.nx = s.nx := by simp [State.emptied]
@[simp] theorem State.emptied_bitcnt (s : State) : s.emptied.bitcnt = s.bitcnt := by simp [State.emptied]
@[simp] theorem State.emptied_phase (s : State) : s.emptied.phase = s.phase := by simp [State.emptied]
@[simp] theorem State.emptied_err (s : State) : s.emptied.err = s.err := by simp [State.emptied]
@[simp] theorem State.emptied_errCause (s : State) : s.emptied.errCause = s.errCause := by simp [State.emptied]
@[simp] theorem State.emptied_rsp (s : State) : s.emptied.rsp = s.rsp := by simp [State.emptied]
@[simp] theorem State.emptied_faultLog (s : State) : s.emptied.faultLog = s.faultLog := by simp [State.emptied]
@[simp] theorem State.emptied_pending (s : State) : s.emptied.pending = s.pending := by simp [State.emptied]
@[simp] theorem State.emptied_draws (s : State) : s.emptied.draws = s.draws + 1 := by simp [State.emptied]

/-! ## padSplit and padded: FINALIZE up to its end -/

@[simp] theorem State.padSplit_p (s : State) : s.padSplit.p = s.p := by unfold State.padSplit; split <;> simp
@[simp] theorem State.padSplit_nx (s : State) : s.padSplit.nx = s.nx := by unfold State.padSplit; split <;> simp
@[simp] theorem State.padSplit_bitcnt (s : State) : s.padSplit.bitcnt = s.bitcnt := by unfold State.padSplit; split <;> simp
@[simp] theorem State.padSplit_phase (s : State) : s.padSplit.phase = s.phase := by unfold State.padSplit; split <;> simp
@[simp] theorem State.padSplit_err (s : State) : s.padSplit.err = s.err := by unfold State.padSplit; split <;> simp
@[simp] theorem State.padSplit_errCause (s : State) : s.padSplit.errCause = s.errCause := by unfold State.padSplit; split <;> simp
@[simp] theorem State.padSplit_rsp (s : State) : s.padSplit.rsp = s.rsp := by unfold State.padSplit; split <;> simp
@[simp] theorem State.padSplit_faultLog (s : State) : s.padSplit.faultLog = s.faultLog := by unfold State.padSplit; split <;> simp
@[simp] theorem State.padSplit_pending (s : State) : s.padSplit.pending = s.pending := by unfold State.padSplit; split <;> simp
@[simp] theorem State.padSplit_draws (s : State) : s.padSplit.draws = s.draws := by unfold State.padSplit; split <;> simp

@[simp] theorem State.padded_h (s : State) : s.padded.h = compress s.padSplit.h s.padSplit.padLength.buf := by simp [State.padded]
@[simp] theorem State.padded_p (s : State) : s.padded.p = s.p := by simp [State.padded]
@[simp] theorem State.padded_nx (s : State) : s.padded.nx = s.nx := by simp [State.padded]
@[simp] theorem State.padded_bitcnt (s : State) : s.padded.bitcnt = s.bitcnt := by simp [State.padded]
@[simp] theorem State.padded_phase (s : State) : s.padded.phase = .finalized := by simp [State.padded]
@[simp] theorem State.padded_err (s : State) : s.padded.err = s.err := by simp [State.padded]
@[simp] theorem State.padded_errCause (s : State) : s.padded.errCause = s.errCause := by simp [State.padded]
@[simp] theorem State.padded_rsp (s : State) : s.padded.rsp = s.rsp := by simp [State.padded]
@[simp] theorem State.padded_faultLog (s : State) : s.padded.faultLog = s.faultLog := by simp [State.padded]
@[simp] theorem State.padded_pending (s : State) : s.padded.pending = s.pending := by simp [State.padded]
@[simp] theorem State.padded_draws (s : State) : s.padded.draws = s.draws := by simp [State.padded]

/-- FEED_BYTE into the buffer's last cell compresses and empties it (R82). -/
theorem State.fedByte_last (b : Byte) (s : State) (hp : s.p = 63) : s.fedByte b = (s.takeByte b).emptied := by
  simp only [State.fedByte, hp, if_true]

/-- FEED_BYTE into any other cell counts the byte (R81). -/
theorem State.fedByte_open (b : Byte) (s : State) (hp : s.p ≠ 63) :
    s.fedByte b = (s.takeByte b).withP (s.p + 1) := by
  simp only [State.fedByte, hp, if_false]

/-! ## fedByte: what both of its cases keep or write alike -/

@[simp] theorem State.fedByte_nx (b : Byte) (s : State) : (s.fedByte b).nx = s.nx := by
  by_cases hp : s.p = 63
  · rw [State.fedByte_last b s hp]; simp
  · rw [State.fedByte_open b s hp]; simp
@[simp] theorem State.fedByte_bitcnt (b : Byte) (s : State) : (s.fedByte b).bitcnt = s.bitcnt + 8#64 := by
  by_cases hp : s.p = 63
  · rw [State.fedByte_last b s hp]; simp
  · rw [State.fedByte_open b s hp]; simp
@[simp] theorem State.fedByte_phase (b : Byte) (s : State) : (s.fedByte b).phase = s.phase := by
  by_cases hp : s.p = 63
  · rw [State.fedByte_last b s hp]; simp
  · rw [State.fedByte_open b s hp]; simp
@[simp] theorem State.fedByte_err (b : Byte) (s : State) : (s.fedByte b).err = s.err := by
  by_cases hp : s.p = 63
  · rw [State.fedByte_last b s hp]; simp
  · rw [State.fedByte_open b s hp]; simp
@[simp] theorem State.fedByte_errCause (b : Byte) (s : State) : (s.fedByte b).errCause = s.errCause := by
  by_cases hp : s.p = 63
  · rw [State.fedByte_last b s hp]; simp
  · rw [State.fedByte_open b s hp]; simp
@[simp] theorem State.fedByte_rsp (b : Byte) (s : State) : (s.fedByte b).rsp = s.rsp := by
  by_cases hp : s.p = 63
  · rw [State.fedByte_last b s hp]; simp
  · rw [State.fedByte_open b s hp]; simp
@[simp] theorem State.fedByte_faultLog (b : Byte) (s : State) : (s.fedByte b).faultLog = s.faultLog := by
  by_cases hp : s.p = 63
  · rw [State.fedByte_last b s hp]; simp
  · rw [State.fedByte_open b s hp]; simp
@[simp] theorem State.fedByte_pending (b : Byte) (s : State) : (s.fedByte b).pending = s.pending := by
  by_cases hp : s.p = 63
  · rw [State.fedByte_last b s hp]; simp
  · rw [State.fedByte_open b s hp]; simp

end Sys2Proof.Machine
end

