-- ==== Sys2Proof/Laws/Ops.lean ====
section
/-! SUPPORT. One lemma per shared operation that says everything it can do: responding, taking a fault, the checks, the
writes of BUF by cell, the operands. -/

namespace Sys2Proof.Machine

/-- Responding always completes. -/
theorem respond_eq (w : Word) (s : State) : respond w s = .next (s.responded w) := rfl

/-- Taking a fault always gives a next state (R124). -/
theorem raiseFault_eq (c : Cause) (s : State) : raiseFault c s = .next (s.faulted c) := rfl

/-- The stored cause is reported while ERR = 1 (R124, R128). -/
theorem reported_of_latched (c : Cause) (s : State) (h : s.err = true) : s.reported c = s.errCause := by
  simp [State.reported, h]

/-- The new cause is reported while ERR = 0 (R124). -/
theorem reported_of_clear (c : Cause) (s : State) (h : s.err = false) : s.reported c = c := by
  simp [State.reported, h]

/-- What a fault leaves is what FaultTaken says, with the cause reported. -/
theorem faulted_faultTaken (c : Cause) (s : State) : FaultTaken (s.reported c) s (s.faulted c) := by
  simp [FaultTaken, faultResponse]

/-- A check that holds lets the rest run (R13). -/
theorem requireElse_of (p : Prop) [Decidable p] (c : Cause) (s : State) (rest : Result) (h : p) :
    requireElse p c s rest = rest := by
  simp [requireElse, h]

/-- A check that fails takes its fault and nothing else (R13). -/
theorem requireElse_of_not (p : Prop) [Decidable p] (c : Cause) (s : State) (rest : Result) (h : ¬ p) :
    requireElse p c s rest = .next (s.faulted c) := by
  simp [requireElse, h, raiseFault_eq]

/-- Everything a check can do. -/
theorem requireElse_cases {p : Prop} [Decidable p] {c : Cause} {s t : State} {rest : Result}
    (h : requireElse p c s rest = .next t) : (p ∧ rest = .next t) ∨ (¬ p ∧ t = s.faulted c) := by
  by_cases hp : p
  · exact .inl ⟨hp, by rwa [requireElse_of p c s rest hp] at h⟩
  · rw [requireElse_of_not p c s rest hp] at h
    exact .inr ⟨hp, by injection h with h; exact h.symm⟩

/-- With ERR = 0 the latch check lets the rest run (R126). -/
theorem unlessLatched_of_clear (s : State) (rest : Result) (h : s.err = false) : unlessLatched s rest = rest := by
  simp [unlessLatched, h]

/-- With ERR = 1 the command is rejected with the stored cause (R126). -/
theorem unlessLatched_of_latched (s : State) (rest : Result) (h : s.err = true) :
    unlessLatched s rest = .next (s.faulted s.errCause) := by
  simp [unlessLatched, h, raiseFault_eq]

/-- Everything the latch check can do. -/
theorem unlessLatched_cases {s t : State} {rest : Result} (h : unlessLatched s rest = .next t) :
    (s.err = false ∧ rest = .next t) ∨ (s.err = true ∧ t = s.faulted s.errCause) := by
  cases he : s.err
  · exact .inl ⟨rfl, by rwa [unlessLatched_of_clear s rest he] at h⟩
  · rw [unlessLatched_of_latched s rest he] at h
    exact .inr ⟨rfl, by injection h with h; exact h.symm⟩

/-- Everything an ILLEGAL word does: it takes a fault (R67, R125). -/
theorem illegalWord_eq (s : State) :
    illegalWord s = .next (s.faulted (if s.err then s.errCause else .illegalCommand)) := by
  cases he : s.err <;> simp [illegalWord, unlessLatched, he, raiseFault_eq]

/-- A MemWrite by cell (R12). -/
theorem memWrite_get (i : Nat) (bs : List Byte) (buf : Buffer) (k : Fin 64) :
    (memWrite i bs buf)[k] = if i ≤ k.val then bs.getD (k.val - i) buf[k] else buf[k] := by
  simp [memWrite]

/-- Zeroing after a cell, by cell (R94). -/
theorem zeroAfter_get (i : Fin 64) (buf : Buffer) (k : Fin 64) :
    (zeroAfter i buf)[k] = if i < k then 0#8 else buf[k] := by
  simp [zeroAfter]

/-- The zero buffer by cell. -/
theorem zeroBuf_get (k : Fin 64) : zeroBuf[k] = 0#8 := by simp [zeroBuf]

/-- The count of FEED_BITS is in 1..7 exactly when it is not 0 (R85). -/
theorem countOperand_range : ∀ n : BitVec 3, (1 ≤ (countOperand n).val ∧ (countOperand n).val ≤ 7) ↔ n ≠ 0#3 := by
  decide

/-- The word index of READ_DIGEST exists exactly for k = 0..4 (R69). -/
theorem indexOperand_of_le (k : BitVec 3) (h : k ≤ 4#3) : ∃ i : Fin 5, indexOperand k = some i ∧ i.val = k.toNat := by
  have hk : k.toNat < 5 := by have := BitVec.le_def.mp h; simp at this; omega
  exact ⟨⟨k.toNat, hk⟩, by simp [indexOperand, hk], rfl⟩

end Sys2Proof.Machine
end

