-- ==== Sys2Proof/Laws/Meanings.lean ====
section
/-! SUPPORT. One inversion lemma per command: if it answers next t, then one of these cases holds. -/

namespace Sys2Proof.Machine

/-- Everything RESET can do (R78). -/
theorem execReset_eq (s : State) : execReset s = .next (s.toReset.responded 0#32) := rfl

/-- Everything FEED_BYTE can do (R81, R126). -/
theorem execFeedByte_cases {b : Byte} {s t : State} (h : execFeedByte b s = .next t) :
    (s.err = true ∧ t = s.faulted s.errCause) ∨
    (s.err = false ∧ s.phase ≠ .ready ∧ t = s.faulted .feedPhase) ∨
    (s.err = false ∧ s.phase = .ready ∧ ¬ s.lengthFits 8 ∧ t = s.faulted .lengthOverflow) ∨
    (s.err = false ∧ s.phase = .ready ∧ s.lengthFits 8 ∧ t = (s.fedByte b).responded 0#32) := by
  obtain ⟨he, h⟩ | ⟨he, rfl⟩ := unlessLatched_cases h
  · obtain ⟨hp, h⟩ | ⟨hp, rfl⟩ := requireElse_cases h
    · obtain ⟨hl, h⟩ | ⟨hl, rfl⟩ := requireElse_cases h
      · injection h with h
        exact .inr (.inr (.inr ⟨he, hp, hl, h.symm⟩))
      · exact .inr (.inr (.inl ⟨he, hp, hl, rfl⟩))
    · exact .inr (.inl ⟨he, hp, rfl⟩)
  · exact .inl ⟨he, rfl⟩

/-- Everything FEED_BITS can do (R85, R126). -/
theorem execFeedBits_cases {b : Byte} {n : BitVec 3} {s t : State} (h : execFeedBits b n s = .next t) :
    (s.err = true ∧ t = s.faulted s.errCause) ∨
    (s.err = false ∧ s.phase ≠ .ready ∧ t = s.faulted .bitsPhase) ∨
    (s.err = false ∧ s.phase = .ready ∧ n = 0#3 ∧ t = s.faulted .bitsRange) ∨
    (s.err = false ∧ s.phase = .ready ∧ n ≠ 0#3 ∧ ¬ s.lengthFits n.toNat ∧ t = s.faulted .lengthOverflow) ∨
    (s.err = false ∧ s.phase = .ready ∧ n ≠ 0#3 ∧ s.lengthFits n.toNat ∧
      t = (s.fedBits b n.toFin).responded 0#32) := by
  have hn := countOperand_range n
  obtain ⟨he, h⟩ | ⟨he, rfl⟩ := unlessLatched_cases h
  · obtain ⟨hp, h⟩ | ⟨hp, rfl⟩ := requireElse_cases h
    · obtain ⟨hr, h⟩ | ⟨hr, rfl⟩ := requireElse_cases h
      · obtain ⟨hl, h⟩ | ⟨hl, rfl⟩ := requireElse_cases h
        · injection h with h
          exact .inr (.inr (.inr (.inr ⟨he, hp, hn.mp hr, hl, h.symm⟩)))
        · exact .inr (.inr (.inr (.inl ⟨he, hp, hn.mp hr, hl, rfl⟩)))
      · exact .inr (.inr (.inl ⟨he, hp, by_contra fun h0 => hr (hn.mpr h0), rfl⟩))
    · exact .inr (.inl ⟨he, hp, rfl⟩)
  · exact .inl ⟨he, rfl⟩

/-- Everything FINALIZE can do (R91, R126). -/
theorem execFinalize_cases {s t : State} (h : execFinalize s = .next t) :
    (s.err = true ∧ t = s.faulted s.errCause) ∨
    (s.err = false ∧ s.phase = .finalized ∧ t = s.faulted .finalizePhase) ∨
    (s.err = false ∧ s.phase ≠ .finalized ∧ t = s.padded.losePending.responded 0#32) := by
  obtain ⟨he, h⟩ | ⟨he, rfl⟩ := unlessLatched_cases h
  · obtain ⟨hp, h⟩ | ⟨hp, rfl⟩ := requireElse_cases h
    · injection h with h
      exact .inr (.inr ⟨he, hp, h.symm⟩)
    · exact .inr (.inl ⟨he, by simpa using hp, rfl⟩)
  · exact .inl ⟨he, rfl⟩

/-- Everything READ_DIGEST can do (R69, R88, R126). -/
theorem execReadDigest_cases {k : BitVec 3} {s t : State} (h : execReadDigest k s = .next t) :
    (s.err = true ∧ t = s.faulted s.errCause) ∨
    (s.err = false ∧ indexOperand k = none ∧ t = s.faulted .illegalCommand) ∨
    (s.err = false ∧ s.phase ≠ .finalized ∧ indexOperand k ≠ none ∧ t = s.faulted .digestPhase) ∨
    (s.err = false ∧ s.phase = .finalized ∧ ∃ i, indexOperand k = some i ∧ t = s.responded s.h[i]) := by
  obtain ⟨he, h⟩ | ⟨he, rfl⟩ := unlessLatched_cases h
  · cases hk : indexOperand k with
    | none =>
      simp only [hk] at h
      injection h with h
      exact .inr (.inl ⟨he, rfl, h.symm⟩)
    | some i =>
      simp only [hk] at h
      obtain ⟨hp, h⟩ | ⟨hp, rfl⟩ := requireElse_cases h
      · injection h with h
        exact .inr (.inr (.inr ⟨he, hp, i, rfl, h.symm⟩))
      · exact .inr (.inr (.inl ⟨he, hp, by simp, rfl⟩))
  · exact .inl ⟨he, rfl⟩

end Sys2Proof.Machine
end

