-- ==== Sys2Proof/Laws/PerInstr.lean ====
section
/-! SUPPORT. A statement made per command: its word keeps the reserved fields zero and holds its opcode (30_encoding.md
R58, R60). -/

namespace Sys2Proof.Laws.Layout

/-- The opcode of a command (R60). -/
def opcode : Instr → BitVec 4
  | .reset => 0x1#4
  | .feedByte _ => 0x2#4
  | .feedBits _ _ => 0x3#4
  | .finalize => 0x4#4
  | .readDigest _ => 0x5#4

/-- The command's word has its opcode in bits 3:0 and zeros in bits 7 and 31:16. -/
def Statement (i : Instr) : Prop :=
  opField (encode i) = opcode i ∧ reservedClear (encode i) = true

/-- The reserved fields and the opcode of a word laid out by cmd32. -/
theorem cmd32_fields (data : Byte) (arg : BitVec 3) (op : BitVec 4) :
    opField (cmd32 data arg op) = op ∧ reservedClear (cmd32 data arg op) = true := by
  have h1 : opField (cmd32 data arg op) = op := by
    apply BitVec.eq_of_getLsbD_eq
    intro i hi
    have h8 : i < 8 := by omega
    have h32 : i < 32 := by omega
    simp [opField, cmd32, hi, h8, h32]
  have h2 : rsv0Field (cmd32 data arg op) = 0#1 := by
    apply BitVec.eq_of_getLsbD_eq
    intro i hi
    have h0 : i = 0 := by omega
    subst h0
    simp [rsv0Field, cmd32]
  have h3 : rsv1Field (cmd32 data arg op) = 0#16 := by
    apply BitVec.eq_of_getLsbD_eq
    intro i hi
    have h8 : 8 ≤ 16 + i - 8 := by omega
    have h4 : 3 ≤ 16 + i - 4 := by omega
    have h0 : 4 ≤ 16 + i := by omega
    simp [rsv1Field, cmd32, BitVec.getLsbD_of_ge _ _ h8, BitVec.getLsbD_of_ge _ _ h4, BitVec.getLsbD_of_ge _ _ h0]
  exact ⟨h1, by simp [reservedClear, h2, h3]⟩

theorem reset : Statement .reset := cmd32_fields _ _ _
theorem feedByte (b : Byte) : Statement (.feedByte b) := cmd32_fields _ _ _
theorem feedBits (b : Byte) (n : BitVec 3) : Statement (.feedBits b n) := cmd32_fields _ _ _
theorem finalize : Statement .finalize := cmd32_fields _ _ _
theorem readDigest (k : BitVec 3) : Statement (.readDigest k) := cmd32_fields _ _ _

end Sys2Proof.Laws.Layout
end

