-- ==== Sys2Proof/Laws/Step.lean ====
section
/-! SUPPORT. One lemma that says everything a command word can do, and one for a step. -/

namespace Sys2Proof.Machine

/-- Everything a command word can do: its command's meaning, or the fault of an ILLEGAL word (R77). -/
theorem performWord_cases {w : Word} {s t : State} (h : performWord w s = .next t) :
    (∃ i, decode w = .ok i ∧ exec i s = .next t) ∨
    (∃ r, decode w = .error r ∧ t = s.faulted (if s.err then s.errCause else .illegalCommand)) := by
  unfold performWord at h
  split at h
  next i hd => exact .inl ⟨i, hd, h⟩
  next r hd =>
    rw [illegalWord_eq] at h
    injection h with h
    exact .inr ⟨r, hd, h.symm⟩

/-- Everything a step can do (R51, R139, R141 to R143). -/
theorem step_cases {s t : State} (h : step s = .next t) :
    (s.pending = [] ∧ t = s) ∨
    (∃ e rest, s.pending = e :: rest ∧
      ((∃ w, e = .command w ∧ performWord w { s with pending := rest } = .next t) ∨
       ((e = .resetInput ∨ ∃ w, e = .resetWith w) ∧ t = resetByInput { s with pending := rest }) ∨
       (((∃ w, e = .resetDuring w) ∨ e = .powerUp) ∧ t = resetInProgress { s with pending := rest }))) := by
  unfold step nextEvent at h
  split at h
  next hp =>
    injection h with h
    exact .inl ⟨hp, h.symm⟩
  next e rest hp =>
    refine .inr ⟨e, rest, hp, ?_⟩
    cases e with
    | command w => exact .inl ⟨w, rfl, h⟩
    | resetInput => injection h with h; exact .inr (.inl ⟨.inl rfl, h.symm⟩)
    | resetWith w => injection h with h; exact .inr (.inl ⟨.inr ⟨w, rfl⟩, h.symm⟩)
    | resetDuring w => injection h with h; exact .inr (.inr ⟨.inl ⟨w, rfl⟩, h.symm⟩)
    | powerUp => injection h with h; exact .inr (.inr ⟨.inr rfl, h.symm⟩)

end Sys2Proof.Machine
end

