-- ==== Sys2Proof/Laws/Pseudo.lean ====
section
/-! SUPPORT. What a sequence of commands does, by its first command, and what a pseudo-command's result is made of. -/

namespace Sys2Proof.Machine

/-! ## Sequences -/

/-- Feeding a concatenation is feeding its parts in order (R74). -/
@[simp] theorem feedCmds_append (xs ys : List Byte) : feedCmds (xs ++ ys) = feedCmds xs ++ feedCmds ys := by
  simp [feedCmds]

/-- No command has run: the state is kept. -/
@[simp] theorem performWords_nil (s : State) : performWords [] s = .next s := rfl

/-- The first command's next state is where the rest starts (R51). -/
theorem performWords_cons {w : Word} {s t : State} (ws : List Word) (h : performWord w s = .next t) :
    performWords (w :: ws) s = performWords ws t := by
  simp [performWords, h]

/-- A sequence that ran to its end is followed by the next one from its last state (R51). -/
theorem performWords_append {ws : List Word} {s t : State} (vs : List Word) (h : performWords ws s = .next t) :
    performWords (ws ++ vs) s = performWords vs t := by
  induction ws generalizing s with
  | nil => injection h with h; rw [List.nil_append, h]
  | cons w ws ih =>
    cases hw : performWord w s with
    | next u =>
      rw [performWords_cons ws hw] at h
      rw [List.cons_append, performWords_cons _ hw, ih h]
    | fault r => simp [performWords, hw] at h
    | refused r => simp [performWords, hw] at h

/-- No command, no response. -/
@[simp] theorem responsesTo_nil (s : State) : responsesTo [] s = [] := rfl

/-- The first response, then the rest's from the state it leaves (R16). -/
theorem responsesTo_cons {w : Word} {s t : State} (ws : List Word) (h : performWord w s = .next t) :
    responsesTo (w :: ws) s = t.rsp :: responsesTo ws t := by
  simp [responsesTo, h]

/-- A sequence that ran to its end: its responses, then the next one's (R16). -/
theorem responsesTo_append {ws : List Word} {s t : State} (vs : List Word) (h : performWords ws s = .next t) :
    responsesTo (ws ++ vs) s = responsesTo ws s ++ responsesTo vs t := by
  induction ws generalizing s with
  | nil => injection h with h; rw [List.nil_append, h, responsesTo_nil, List.nil_append]
  | cons w ws ih =>
    cases hw : performWord w s with
    | next u =>
      rw [performWords_cons ws hw] at h
      rw [List.cons_append, responsesTo_cons _ hw, responsesTo_cons _ hw, ih h, List.cons_append]
    | fault r => simp [performWords, hw] at h
    | refused r => simp [performWords, hw] at h

/-! ## Results -/

/-- A READ_DIGEST's response is picked. -/
@[simp] theorem digestResponses_readDigest (k : BitVec 3) (is : List Instr) (r : Response) (rs : List (Option Response)) :
    digestResponses (.readDigest k :: is) (some r :: rs) = r :: digestResponses is rs := rfl

/-- RESET's response is not picked. -/
@[simp] theorem digestResponses_reset (is : List Instr) (r : Option Response) (rs : List (Option Response)) :
    digestResponses (.reset :: is) (r :: rs) = digestResponses is rs := rfl

/-- FEED_BYTE's response is not picked. -/
@[simp] theorem digestResponses_feedByte (b : Byte) (is : List Instr) (r : Option Response) (rs : List (Option Response)) :
    digestResponses (.feedByte b :: is) (r :: rs) = digestResponses is rs := rfl

/-- FEED_BITS's response is not picked. -/
@[simp] theorem digestResponses_feedBits (b : Byte) (n : BitVec 3) (is : List Instr) (r : Option Response)
    (rs : List (Option Response)) : digestResponses (.feedBits b n :: is) (r :: rs) = digestResponses is rs := rfl

/-- FINALIZE's response is not picked. -/
@[simp] theorem digestResponses_finalize (is : List Instr) (r : Option Response) (rs : List (Option Response)) :
    digestResponses (.finalize :: is) (r :: rs) = digestResponses is rs := rfl

/-- The first fault is the result (R75). -/
@[simp] theorem digestResult_fault (c : Cause) (w : Word) (rs : List Response) :
    digestResult ({ status := .fault, cause := c, rdata := w } :: rs) = .error c := rfl

/-- An OK response gives its word's four bytes, then the rest's (R44, R75). -/
@[simp] theorem digestResult_ok (c : Cause) (w : Word) (rs : List Response) :
    digestResult ({ status := .ok, cause := c, rdata := w } :: rs) = (digestResult rs).map (bytes32 w ++ ·) := rfl

/-- Five OK responses with a digest's words in order are its 20 bytes (R44, R75, R90). -/
theorem digestResult_words (d : Digest) :
    digestResult ([d[0], d[1], d[2], d[3], d[4]].map fun w => { status := .ok, cause := .none, rdata := w })
      = .ok (digestBytes d) := by
  simp [digestResult, digestBytes, Except.map]

/-! ## hash -/

/-- The host refuses `hash` exactly for a tail of 8 bits or more (R76). -/
theorem hashCmds_eq_none_iff (bytes : List Byte) (tail : Option (Byte × Nat)) :
    hashCmds bytes tail = none ↔ ∃ x n, tail = some (x, n) ∧ 8 ≤ n := by
  rcases tail with _ | ⟨x, n⟩
  · simp [hashCmds, tailCmds]
  · simp only [hashCmds, Option.map_eq_none_iff, tailCmds]
    split
    · simp; omega
    · split <;> simp <;> omega

/-- `hash` without a tail has no FEED_BITS, and so has a tail of 0 bits (R76). -/
theorem hashCmds_of_zero (bytes : List Byte) (x : Byte) : hashCmds bytes (some (x, 0)) = hashCmds bytes none := rfl

end Sys2Proof.Machine
end

