-- ==== Sys2Proof/Tests/Slice0.lean ====
section
/-! SUPPORT. Tests. Every expected result comes from spec/ (95_test_vectors.md and the rules named), none from the model.
The second half holds, for every statement with hypotheses, a state and operands that meet all of them together, at the
boundaries of each clause. -/

namespace Sys2Proof.Tests

open Sys2Proof Sys2Proof.Machine

/-- The test on the state a command leaves; false where it leaves none. -/
def after (r : Result) (f : State → Bool) : Bool :=
  match r with
  | .next t => f t
  | .fault _ => false
  | .refused _ => false

/-- A state like reset, with BUF filled with v and P, NX, BITCNT and PHASE given. -/
def at_ (v : Byte) (p : Fin 64) (nx : Fin 8) (bitcnt : DWord) (phase : Phase) : State :=
  { State.reset with buf := Vector.replicate 64 v, p := p, nx := nx, bitcnt := bitcnt, phase := phase }

/-- A state with the fault latch set. -/
def latched (c : Cause) (s : State) : State := { s with err := true, errCause := c, faultLog := some c }

/-- A state with one event of the host to come. -/
def offered (e : HostEvent) (s : State) : State := { s with pending := [e] }

/-- The response (0, 0, w). -/
def okWith (w : Word) : Option Response := some { status := .ok, cause := .none, rdata := w }

/-! ## Well-formedness (30_encoding.md R63, R69): the one check, with an ill-formed term it refuses -/

theorem test_wf_refuses_index_5 : (Instr.readDigest 5#3).wellFormed = false := by decide
theorem test_wf_refuses_index_7 : (Instr.readDigest 7#3).wellFormed = false := by decide
theorem test_wf_accepts_index_4 : (Instr.readDigest 4#3).wellFormed = true := by decide
theorem test_wf_accepts_count_0 : (Instr.feedBits 0xFF#8 0#3).wellFormed = true := by decide

/-! ## Decoding: one word per command, written out bit by bit from R61 to R65 -/

theorem test_decode_reset : decode 0b0000000000000000_00000000_0_000_0001#32 = .ok .reset := by decide
theorem test_decode_feedByte : decode 0b0000000000000000_10100101_0_000_0010#32 = .ok (.feedByte 0xA5#8) := by decide
theorem test_decode_feedBits : decode 0b0000000000000000_10011000_0_110_0011#32 = .ok (.feedBits 0x98#8 6#3) := by decide
theorem test_decode_finalize : decode 0b0000000000000000_00000000_0_000_0100#32 = .ok .finalize := by decide
theorem test_decode_readDigest : decode 0b0000000000000000_00000000_0_011_0101#32 = .ok (.readDigest 3#3) := by decide
theorem test_decode_tableWord : decodeTableWord 32 0x00009853 = some (.feedBits 0x98#8 5#3) := by decide
theorem test_decode_tableWord_illegal : decodeTableWord 32 0x00000055 = none := by decide
theorem test_decode_tableWord_reset : decodeTableWord 8 0x01 = some .reset := by decide

/-! ## RESET (95_test_vectors.md 2.6) -/

/-- R-1. -/
theorem test_reset_awaiting : after (exec .reset (at_ 0x5A#8 3 1 25#64 .awaitingPadding)) (fun t =>
    t.h == iv && t.p == 0 && t.nx == 0 && t.bitcnt == 0#64 && t.phase == .ready && t.rsp == some okResponse) = true := by
  decide

/-- R-2: the latch is cleared, the fault log is not. -/
theorem test_reset_latched : after (exec .reset (latched .feedPhase State.reset)) (fun t =>
    !t.err && t.errCause == .none && t.faultLog == some .feedPhase) = true := by decide

/-! ## FEED_BYTE (95_test_vectors.md 2.2) -/

/-- B-1. -/
theorem test_feedByte_first : after (exec (.feedByte 0x61#8) State.reset) (fun t =>
    t.buf[0] == 0x61#8 && t.p == 1 && t.bitcnt == 8#64 && t.h == iv && t.rsp == some okResponse) = true := by decide

/-- B-3: the 64th zero byte compresses. -/
theorem test_feedByte_last : after (exec (.feedByte 0x00#8) (at_ 0x00#8 63 0 504#64 .ready)) (fun t =>
    t.h == #v[0x92B404E5, 0x56588CED, 0x6C1ACD4E, 0xBF053F68, 0x09F73A93] && t.p == 0 && t.bitcnt == 512#64) = true := by
  decide +kernel

/-! ## FEED_BITS (95_test_vectors.md 2.3) -/

/-- X-1. -/
theorem test_feedBits_tail : after (exec (.feedBits 0x98#8 5#3) State.reset) (fun t =>
    t.buf[0] == 0x98#8 && t.nx == 5 && t.bitcnt == 5#64 && t.p == 0 && t.phase == .awaitingPadding) = true := by decide

/-- X-10: the phase before the range. -/
theorem test_feedBits_priority : after (exec (.feedBits 0x00#8 0#3) (at_ 0#8 0 0 0#64 .finalized)) (fun t =>
    t.rsp == some (faultResponse .bitsPhase)) = true := by decide

/-! ## FINALIZE (95_test_vectors.md 2.3, 2.4) -/

/-- X-2: the low bits of the tail byte 0x9F never reach the digest. -/
theorem test_finalize_tail : after (exec .finalize { at_ 0x9F#8 0 5 5#64 .awaitingPadding with h := iv }) (fun t =>
    t.h == #v[0x29826B00, 0x3B906E66, 0x0EFF4027, 0xCE98AF35, 0x31AC75BA] && t.phase == .finalized) = true := by
  decide +kernel

/-- F-6: 56 zero bytes take two blocks, whatever stands in the later cells. -/
theorem test_finalize_two_blocks :
    after (exec .finalize { at_ 0x00#8 56 0 448#64 .ready with buf := memWrite 57 [0xAA#8, 0xBB#8] zeroBuf }) (fun t =>
    t.h == #v[0x9438E360, 0xF578E12C, 0x0E0E8ED2, 0x8E2C125C, 0x1CEFEE16]) = true := by decide +kernel

/-! ## READ_DIGEST (95_test_vectors.md 2.5) -/

/-- D-1 and D-2: the words in order. -/
theorem test_readDigest_words :
    after (exec (.readDigest 4#3)
      { at_ 0#8 9 3 24#64 .finalized with h := #v[0xA9993E36, 0x4706816A, 0xBA3E2571, 0x7850C26C, 0x9CD0D89D] })
      (fun t => t.rsp == okWith 0x9CD0D89D) = true := by decide

/-- D-4. -/
theorem test_readDigest_ready : after (exec (.readDigest 0#3) State.reset) (fun t =>
    t.rsp == some (faultResponse .digestPhase) && t.err && t.errCause == .digestPhase) = true := by decide

/-! ## Words, the latch and the step (95_test_vectors.md 2.8, 3) -/

/-- P-4: the stored cause wins over ILLEGAL_COMMAND. -/
theorem test_latch_wins : after (performWord 0x0000000F#32 (latched .bitsRange State.reset)) (fun t =>
    t.rsp == some (faultResponse .bitsRange)) = true := by decide

/-- P-2: ILLEGAL_COMMAND before the phase. -/
theorem test_illegal_before_phase : after (performWord 0x00000085#32 State.reset) (fun t =>
    t.rsp == some (faultResponse .illegalCommand)) = true := by decide

/-- The step runs the word presented. -/
theorem test_step_fetch : after (step (State.reset.withFetchWord 32 0x00006102)) (fun t =>
    t.buf[0] == 0x61#8 && t.p == 1 && t.pending == []) = true := by decide

/-- R142: a reset wins over the command it comes with. -/
theorem test_step_resetWith : after (step (offered (.resetWith 0x00006102#32) (at_ 0#8 7 0 56#64 .ready))) (fun t =>
    t.p == 0 && t.bitcnt == 0#64 && t.rsp == none) = true := by decide

/-! ## The compressor (95_test_vectors.md 2.1) -/

theorem test_compress_ones : compress (Vector.replicate 5 0xFFFFFFFF) (Vector.replicate 64 0xFF#8) =
    #v[0x3F48159B, 0x2DCE51FA, 0x8A1E930A, 0x02083B68, 0xEF70D6E8] := by decide +kernel

theorem test_iterative_zeros : compressIterative (Vector.replicate 5 0) zeroBuf =
    #v[0x9E1547ED, 0x57EC91C2, 0x30FA8BC8, 0xC7785A54, 0xA7EFA5E3] := by decide +kernel

theorem test_pipelined_zeros : compressPipelined (Vector.replicate 5 0) zeroBuf =
    #v[0x9E1547ED, 0x57EC91C2, 0x30FA8BC8, 0xC7785A54, 0xA7EFA5E3] := by decide +kernel

theorem test_rotl : rotl 1 0x80000001 = 0x00000003 ∧ rotl 5 0x80000001 = 0x00000030 ∧ rotl 30 0x80000001 = 0x60000000 := by
  decide

theorem test_roundF : roundF 0 0xF0F0F0F0 0xFF00FF00 0x0F0F0F0F = 0xFF0FFF0F ∧
    roundF 20 0xF0F0F0F0 0xFF00FF00 0x0F0F0F0F = 0x00FF00FF ∧
    roundF 59 0xF0F0F0F0 0xFF00FF00 0x0F0F0F0F = 0xFF00FF00 ∧
    roundF 79 0xF0F0F0F0 0xFF00FF00 0x0F0F0F0F = 0x00FF00FF := by decide

/-- R111's example: the first round of the "abc" block. -/
theorem test_roundStep_abc : roundStep 0 0x61626380 (loadWorking iv) =
    { a := 0x0116FC33, b := 0x67452301, c := 0x7BF36AE2, d := 0x98BADCFE, e := 0x10325476 } := by decide

/-! ## Responses and the host's syntax (R66, R73) -/

theorem test_pack_fault : (faultResponse .digestPhase).pack = 0x0000001600000000#64 := by decide
theorem test_pack_digest : Response.pack { status := .ok, cause := .none, rdata := 0xA9993E36 } = 0x00000000A9993E36#64 := by decide

/-- `feedx 0x98, 5 ; tail` (R63's example word). -/
theorem test_assemble_feedx :
    assembleWords ['f', 'e', 'e', 'd', 'x', ' ', '0', 'x', '9', '8', ',', ' ', '5', ' ', ';', ' ', 't'] = some [0x00009853#32] := by decide

/-- `rddig 5` is refused (R73). -/
theorem test_assemble_rddig_5 : assembleWords ['r', 'd', 'd', 'i', 'g', ' ', '5'] = none := by decide

/-- A count of 8 is refused on the host (R76). -/
theorem test_hash_refuses_8 : hashCmds [] (some (0#8, 8)) = none := by decide

/-- P2: `hash` of no byte and a 5-bit tail. -/
theorem test_assemble_hash_tail : assembleWords ['h', 'a', 's', 'h', ' ', ',', ' ', '0', 'x', '9', '8', ',', ' ', '5'] =
    some [0x00000001#32, 0x00009853#32, 0x00000004#32, 0x00000005#32, 0x00000015#32, 0x00000025#32, 0x00000035#32,
      0x00000045#32, 0x00000001#32] := by decide

/-- A text whose comma is a message byte, then a tail. -/
theorem test_assemble_hash_text :
    assembleLine ['h', 'a', 's', 'h', ' ', '"', 'a', ',', '"', ',', ' ', '0', 'x', '9', '8', ',', ' ', '5'] =
      hashCmds [0x61#8, 0x2C#8] (some (0x98#8, 5)) := by decide

/-- The result of P2, from its nine responses. -/
theorem test_hash_result :
    digestResult (digestResponses ([.reset, .feedBits 0x98#8 5#3, .finalize] ++ digestCmds ++ [.reset])
      [okWith 0, okWith 0, okWith 0, okWith 0x29826B00, okWith 0x3B906E66, okWith 0x0EFF4027, okWith 0xCE98AF35,
        okWith 0x31AC75BA, okWith 0]) =
      .ok [0x29, 0x82, 0x6B, 0x00, 0x3B, 0x90, 0x6E, 0x66, 0x0E, 0xFF, 0x40, 0x27, 0xCE, 0x98, 0xAF, 0x35, 0x31, 0xAC,
        0x75, 0xBA] := by decide

/-- A fault among the five is the result (R75). -/
theorem test_digest_fault : runDigest State.reset = .error .digestPhase := by decide

/-! ## Witnesses: the hypotheses of the statements can be met -/

theorem wit_decodeOfEncode : (Instr.readDigest 4#3).wellFormed = true ∧ (Instr.feedBits 0#8 0#3).wellFormed = true := by decide

theorem wit_encodeOfDecode : decode 0x00000045#32 = .ok (.readDigest 4#3) ∧ decode 0x0000FF73#32 = .ok (.feedBits 0xFF#8 7#3) := by
  decide

theorem wit_reservedOpcodes : ((0x00000000#32).extractLsb' 0 4 = 0x0#4 ∧ 0x6#4 ≤ (0x00000006#32).extractLsb' 0 4 ∧
    0x6#4 ≤ (0xFFFFFFFF#32).extractLsb' 0 4) ∧ State.reset.err = false := by decide

theorem wit_reservedFields :
    ((0x00000011#32).extractLsb' 0 4 = 0x1#4 ∧ (0x00000011#32).extractLsb' 4 28 ≠ 0#28) ∧
    ((0x80000004#32).extractLsb' 0 4 = 0x4#4 ∧ (0x80000004#32).extractLsb' 4 28 ≠ 0#28) ∧
    ((0x00010002#32).extractLsb' 0 4 = 0x2#4 ∧ (0x00010002#32).extractLsb' 16 16 ≠ 0#16) ∧
    ((0x00006112#32).extractLsb' 0 4 = 0x2#4 ∧ (0x00006112#32).extractLsb' 4 4 ≠ 0#4) ∧
    ((0x80000003#32).extractLsb' 0 4 = 0x3#4 ∧ (0x80000003#32).extractLsb' 16 16 ≠ 0#16) ∧
    ((0x0000FF83#32).extractLsb' 0 4 = 0x3#4 ∧ (0x0000FF83#32).extractLsb' 7 1 ≠ 0#1) ∧
    ((0x00000085#32).extractLsb' 0 4 = 0x5#4 ∧ (0x00000085#32).extractLsb' 7 25 ≠ 0#25) ∧
    ((0x00000055#32).extractLsb' 0 4 = 0x5#4 ∧ 4#3 < (0x00000055#32).extractLsb' 4 3) ∧
    State.reset.err = false := by decide

theorem wit_stepRuns : (offered (.command 0x00006102#32) State.reset).pending = [.command 0x00006102#32] ∧
    decode 0x00006102#32 = .ok (.feedByte 0x61#8) := by decide

theorem wit_stepOnIllegal : (offered (.command 0x00000000#32) State.reset).pending = [.command 0x00000000#32] ∧
    decode 0x00000000#32 = .error .reservedOpcode := by decide

theorem wit_idle : State.reset.pending = [] := by decide

theorem wit_resetInput : (offered .resetInput State.reset).pending = [.resetInput] ∧
    (offered (.resetWith 4#32) State.reset).pending = [.resetWith 4#32] := by decide

theorem wit_resetDuring : (offered (.resetDuring 4#32) State.reset).pending = [.resetDuring 4#32] := by decide

theorem wit_powerUp : (offered .powerUp State.reset).pending = [.powerUp] := by decide

theorem wit_resetWords : (0x00000101#32).extractLsb' 0 4 = 0x1#4 ∧ 0x00000101#32 ≠ 0x00000001#32 := by decide

theorem wit_readDigestWords : 4#3 < 5#3 := by decide

theorem wit_resetTwice : ∃ t, exec .reset (at_ 1#8 3 1 25#64 .awaitingPadding) = .next t := ⟨_, rfl⟩

/-- One state per clause of FeedByteFollowsItsRule: two phases, 2^64 - 8, 2^64 - 9 with P = 62, P = 63 (B-5 to B-8). -/
theorem wit_feedByte :
    ((at_ 0#8 3 1 25#64 .awaitingPadding).err = false ∧ (at_ 0#8 3 1 25#64 .awaitingPadding).phase ≠ .ready) ∧
    ((at_ 0#8 0 0 0#64 .finalized).err = false ∧ (at_ 0#8 0 0 0#64 .finalized).phase ≠ .ready) ∧
    ((at_ 0#8 63 0 0xFFFFFFFFFFFFFFF8#64 .ready).err = false ∧
      2 ^ 64 - 1 - 8 < (at_ 0#8 63 0 0xFFFFFFFFFFFFFFF8#64 .ready).bitcnt.toNat) ∧
    ((at_ 0#8 62 0 0xFFFFFFFFFFFFFFF7#64 .ready).err = false ∧ (at_ 0#8 62 0 0xFFFFFFFFFFFFFFF7#64 .ready).p ≠ 63 ∧
      (at_ 0#8 62 0 0xFFFFFFFFFFFFFFF7#64 .ready).bitcnt.toNat ≤ 2 ^ 64 - 1 - 8) ∧
    ((at_ 0#8 63 0 504#64 .ready).err = false ∧ (at_ 0#8 63 0 504#64 .ready).p = 63 ∧
      (at_ 0#8 63 0 504#64 .ready).bitcnt.toNat ≤ 2 ^ 64 - 1 - 8) := by decide

theorem wit_feedByteWritesOneCell : State.reset.err = false ∧ State.reset.phase = .ready ∧
    State.reset.bitcnt.toNat ≤ 2 ^ 64 - 1 - 8 ∧ State.reset.p ≠ 63 ∧ ∃ t, exec (.feedByte 0x61#8) State.reset = .next t :=
  ⟨by decide, by decide, by decide, by decide, _, rfl⟩

theorem wit_feedingArithmetic : 8 * ([0x61#8, 0x62#8] : List Byte).length ≤ 2 ^ 64 - 1 := by decide


/-- One state per clause of FeedBitsFollowsItsRule (X-8 to X-12). -/
theorem wit_feedBits :
    ((at_ 0#8 0 1 1#64 .awaitingPadding).err = false ∧ (at_ 0#8 0 1 1#64 .awaitingPadding).phase ≠ .ready) ∧
    (State.reset.err = false ∧ State.reset.phase = .ready) ∧
    ((at_ 0#8 63 0 0xFFFFFFFFFFFFFFF9#64 .ready).err = false ∧ 7#3 ≠ 0#3 ∧
      2 ^ 64 - 1 - (7#3).toNat < (at_ 0#8 63 0 0xFFFFFFFFFFFFFFF9#64 .ready).bitcnt.toNat) ∧
    ((at_ 0#8 63 0 0xFFFFFFFFFFFFFFF8#64 .ready).err = false ∧ 7#3 ≠ 0#3 ∧
      (at_ 0#8 63 0 0xFFFFFFFFFFFFFFF8#64 .ready).bitcnt.toNat ≤ 2 ^ 64 - 1 - (7#3).toNat) := by decide

theorem wit_tailLowBits : State.reset.err = false ∧ State.reset.phase = .ready ∧ 5#3 ≠ 0#3 ∧
    State.reset.bitcnt.toNat ≤ 2 ^ 64 - 1 - (5#3).toNat ∧
    (0x98#8).toNat / 2 ^ (8 - (5#3).toNat) = (0x9F#8).toNat / 2 ^ (8 - (5#3).toNat) ∧
    (∃ t, exec (.feedBits 0x98#8 5#3) State.reset = .next t) ∧ (∃ t, exec (.feedBits 0x9F#8 5#3) State.reset = .next t) :=
  ⟨by decide, by decide, by decide, by decide, by decide, ⟨_, rfl⟩, ⟨_, rfl⟩⟩

theorem wit_tailEnds : ∃ t r, exec .reset (at_ 0#8 0 1 1#64 .awaitingPadding) = .next t ∧
    (at_ 0#8 0 1 1#64 .awaitingPadding).phase = .awaitingPadding ∧ t.rsp = some r ∧ r.status = .ok :=
  ⟨_, _, rfl, rfl, rfl, rfl⟩

theorem wit_readDigest : 4#3 ≤ 4#3 ∧ (at_ 0#8 0 0 0#64 .finalized).err = false ∧
    (at_ 0#8 0 0 0#64 .finalized).phase = .finalized ∧ State.reset.err = false ∧ State.reset.phase ≠ .finalized := by decide

theorem wit_digestStays : (at_ 0#8 0 0 0#64 .finalized).phase = .finalized ∧ (Instr.readDigest 0#3) ≠ .reset ∧
    ∃ t, exec (.readDigest 0#3) (at_ 0#8 0 0 0#64 .finalized) = .next t := ⟨by decide, by decide, _, rfl⟩

/-- One state per clause of FinalizeFollowsItsRule: Finalized, pos = 447, pos = 448, pos = 511. -/
theorem wit_finalize :
    ((at_ 0#8 0 0 0#64 .finalized).err = false ∧ (at_ 0#8 0 0 0#64 .finalized).phase = .finalized) ∧
    ((at_ 0#8 55 7 447#64 .awaitingPadding).err = false ∧ (at_ 0#8 55 7 447#64 .awaitingPadding).phase ≠ .finalized ∧
      8 * (at_ 0#8 55 7 447#64 .awaitingPadding).p.val + (at_ 0#8 55 7 447#64 .awaitingPadding).nx.val = 447) ∧
    ((at_ 0#8 56 0 448#64 .ready).err = false ∧ (at_ 0#8 56 0 448#64 .ready).phase ≠ .finalized ∧
      8 * (at_ 0#8 56 0 448#64 .ready).p.val + (at_ 0#8 56 0 448#64 .ready).nx.val = 448) ∧
    ((at_ 0#8 63 7 511#64 .awaitingPadding).err = false ∧
      8 * (at_ 0#8 63 7 511#64 .awaitingPadding).p.val + (at_ 0#8 63 7 511#64 .awaitingPadding).nx.val = 511) := by decide

theorem wit_finalizeStale :
    (at_ 0x11#8 0 0 0#64 .ready).pendingBits = (at_ 0x22#8 0 0 0#64 .ready).pendingBits ∧
    (at_ 0x11#8 0 0 0#64 .ready).phase ≠ .finalized ∧ (at_ 0x22#8 0 0 0#64 .ready).phase ≠ .finalized ∧
    (∃ t, exec .finalize (at_ 0x11#8 0 0 0#64 .ready) = .next t) ∧ (∃ t, exec .finalize (at_ 0x22#8 0 0 0#64 .ready) = .next t) :=
  ⟨by decide, by decide, by decide, ⟨_, rfl⟩, ⟨_, rfl⟩⟩

theorem wit_paddingFsm : State.reset.err = false ∧ State.reset.phase ≠ .finalized ∧
    ∃ t, exec .finalize State.reset = .next t := ⟨by decide, by decide, _, rfl⟩

/-- A core that holds the 8 message bits of 'a', with FINALIZE presented next. -/
def oneByte : State := { at_ 0x61#8 1 0 8#64 .ready with rsp := some okResponse, pending := [.command 0x00000004#32] }

theorem wit_coherent : oneByte.Coherent := by
  refine ⟨by decide, by decide, by decide, by decide, by decide, by decide, ?_⟩
  intro r hr
  obtain rfl : okResponse = r := by simpa [oneByte] using hr
  decide

theorem wit_absorbed : AbsorbedAs [] (byteBits 0x61#8) oneByte := ⟨by decide, by decide, by decide⟩

theorem wit_finalizeGivesSha1 : oneByte.noFault ∧ oneByte.phase ≠ .finalized ∧ oneByte.Coherent ∧
    Absorbed (byteBits 0x61#8) oneByte := ⟨rfl, by decide, wit_coherent, ⟨_, wit_absorbed⟩⟩

theorem wit_chunking : oneByte.Coherent ∧ oneByte.err = false ∧ oneByte.phase = .ready ∧
    oneByte.bitcnt.toNat + 8 * ([[], [0x62#8, 0x63#8], []] : List (List Byte)).flatten.length ≤ 2 ^ 64 - 1 :=
  ⟨wit_coherent, by decide, by decide, by decide⟩

theorem wit_hash : State.reset.noFault ∧ hashCmds [] (some (0x98#8, 5)) =
      some ([.reset, .feedBits 0x98#8 5#3, .finalize] ++ digestCmds ++ [.reset]) ∧
    (messageBits [] (some (0x98#8, 5))).length = 5 ∧ hashCmds [0x61#8] none ≠ none := ⟨rfl, by decide⟩

theorem wit_round : 79 < 80 := by decide

/-- There is a message of any number of bytes. -/
theorem bytesOfLength (n : Nat) : ∃ bytes : List Byte, (messageBits bytes none).length = 8 * n :=
  ⟨List.replicate n 0#8, by simp [messageBits, byteBits, List.length_flatMap, Nat.mul_comm]⟩

/-- A tail at the bound of each clause, and that a message of more than 2^64 - 1 bits is a list. -/
theorem wit_pseudoResults : 8 ≤ 8 ∧ (∀ x n, some ((0x98#8, 7) : Byte × Nat) = some (x, n) → n < 8) ∧
    (∃ bytes : List Byte, 2 ^ 64 - 1 < (messageBits bytes none).length) ∧ hashCmds [] (some (0#8, 7)) ≠ none :=
  ⟨le_refl _, fun x n h => by cases h; decide,
    (bytesOfLength (2 ^ 61)).imp fun bytes h => by rw [h]; decide, by decide⟩

theorem wit_roundForms : 19 ≤ 19 ∧ (40 ≤ 40 ∧ 59 ≤ 59) ∧ (20 ≤ 20 ∧ 39 ≤ 39) ∧ (60 ≤ 60 ∧ 79 ≤ 79) := by decide

theorem wit_abcBlock : ∃ block : Buffer, ∀ k : Fin 64, block[k] =
    if k.val = 0 then 0x61#8 else if k.val = 1 then 0x62#8 else if k.val = 2 then 0x63#8
      else if k.val = 3 then 0x80#8 else if k.val = 63 then 0x18#8 else 0x00#8 :=
  ⟨Vector.ofFn fun k : Fin 64 => if k.val = 0 then 0x61#8 else if k.val = 1 then 0x62#8 else if k.val = 2 then 0x63#8
      else if k.val = 3 then 0x80#8 else if k.val = 63 then 0x18#8 else 0x00#8, by simp⟩

theorem wit_schedule : 16 ≤ 16 ∧ 16 < 80 ∧ 16 ≤ 79 ∧ 79 < 80 := by decide

theorem wit_latched : (latched .bitsRange State.reset).err = true ∧ decode 0x00000005#32 ≠ .ok .reset ∧
    decode 0x0000000F#32 ≠ .ok .reset := by decide

theorem wit_faultsArePrecise : ∃ t r, performWord 0x00000005#32 State.reset = .next t ∧ t.rsp = some r ∧ r.status = .fault :=
  ⟨_, _, rfl, rfl, rfl⟩

theorem wit_causes : (Instr.readDigest 4#3).wellFormed = true ∧ State.reset.err = false := by decide

theorem wit_priority :
    ((latched .bitsRange State.reset).err = true ∧ decode 0x0000000F#32 ≠ .ok .reset) ∧
    (State.reset.err = false ∧ decode 0x00000085#32 = .error .reservedField) ∧
    ((at_ 0#8 0 0 0#64 .finalized).err = false ∧ (at_ 0#8 0 0 0#64 .finalized).phase ≠ .ready) ∧
    State.reset.phase = .ready ∧
    ((at_ 0#8 0 0 0#64 .awaitingPadding).err = false ∧ (at_ 0#8 0 0 0#64 .awaitingPadding).phase ≠ .finalized ∧ 4#3 ≤ 4#3) ∧
    2 ^ 64 - 1 < (at_ 0#8 0 0 0xFFFFFFFFFFFFFFF8#64 .ready).bitcnt.toNat + 8 ∧
    2 ^ 64 - 1 < (at_ 0#8 0 0 0xFFFFFFFFFFFFFFFF#64 .ready).bitcnt.toNat + (1#3).toNat ∧ 1#3 ≠ 0#3 := by decide

theorem wit_causeCodes : ∃ t r, oneByte.Coherent ∧ performWord 0x00000005#32 oneByte = .next t ∧ t.rsp = some r ∧
    r.status = .fault := ⟨_, _, wit_coherent, rfl, rfl, rfl⟩

theorem wit_onlyReset :
    (offered .resetInput (latched .bitsRange State.reset)).err = true ∧
    (∃ t, step (offered .resetInput (latched .bitsRange State.reset)) = .next t ∧ t.err = false) ∧
    (∃ t, step (offered (.command 1#32) (latched .bitsRange State.reset)) = .next t ∧ t.err = false) :=
  ⟨by decide, ⟨_, rfl, rfl⟩, ⟨_, rfl, rfl⟩⟩

theorem wit_faultLog :
    (∃ t, step (offered (.command 1#32) (latched .bitsRange State.reset)) = .next t ∧
      (offered (.command 1#32) (latched .bitsRange State.reset)).faultLog = some .bitsRange) ∧
    State.reset.faultLog = none ∧
    (∃ t r, performWord 0x00000005#32 State.reset = .next t ∧ t.rsp = some r ∧ r.status = .fault) ∧
    (∃ t r, performWord 0x00006102#32 State.reset = .next t ∧ t.rsp = some r ∧ r.status = .ok) :=
  ⟨⟨_, rfl, rfl⟩, by decide, ⟨_, _, rfl, rfl, rfl⟩, ⟨_, _, rfl, rfl, rfl⟩⟩

theorem wit_responseFormat :
    (∃ t r, performWord 0x00000045#32 (at_ 0#8 0 0 0#64 .finalized) = .next t ∧ t.rsp = some r ∧ r.status = .ok) ∧
    decode 0x00000045#32 = .ok (.readDigest 4#3) ∧
    (∃ t r, performWord 0x00000045#32 State.reset = .next t ∧ t.rsp = some r ∧ r.status = .fault) :=
  ⟨⟨_, _, rfl, rfl, rfl⟩, by decide, ⟨_, _, rfl, rfl, rfl⟩⟩

theorem wit_phaseTransitions :
    (∃ t, exec .finalize State.reset = .next t) ∧
    (State.reset.err = false ∧ State.reset.phase = .ready ∧ State.reset.bitcnt.toNat + 8 ≤ 2 ^ 64 - 1) ∧
    (7#3 ≠ 0#3 ∧ (at_ 0#8 63 0 0xFFFFFFFFFFFFFFF8#64 .ready).bitcnt.toNat + (7#3).toNat ≤ 2 ^ 64 - 1) ∧
    ((at_ 0#8 0 1 1#64 .awaitingPadding).err = false ∧ (at_ 0#8 0 1 1#64 .awaitingPadding).phase ≠ .finalized) ∧
    ((at_ 0#8 0 0 0#64 .finalized).err = false ∧ (at_ 0#8 0 0 0#64 .finalized).phase = .finalized ∧ 4#3 ≤ 4#3) :=
  ⟨⟨_, rfl⟩, by decide, by decide, by decide, by decide⟩

theorem wit_coherenceIsKept : oneByte.Coherent ∧ ∃ t, step oneByte = .next t := ⟨wit_coherent, _, rfl⟩

theorem wit_cleanStep : oneByte.Coherent ∧ oneByte.noFault ∧ ∃ t, step oneByte = .next t ∧ t.noFault :=
  ⟨wit_coherent, rfl, _, rfl, rfl⟩

theorem wit_compressionCount : oneByte.noFault ∧ oneByte.phase ≠ .finalized ∧ oneByte.Coherent ∧
    AbsorbedAs [] (byteBits 0x61#8) oneByte := ⟨rfl, by decide, wit_coherent, wit_absorbed⟩

/-- The two-block case at its boundary: 56 bytes pending. -/
theorem wit_compressionCount_split : AbsorbedAs [] ((List.replicate 56 0x61#8).flatMap byteBits)
    (at_ 0x61#8 56 0 448#64 .ready) ∧ 447 < (at_ 0x61#8 56 0 448#64 .ready).padPos ∧
    (at_ 0x61#8 56 0 448#64 .ready).noFault ∧ (at_ 0x61#8 56 0 448#64 .ready).Coherent :=
  ⟨⟨by decide +kernel, by decide, by decide +kernel⟩, by decide, rfl,
    by decide, by decide, by decide, by decide, by decide, by decide, fun r hr => nomatch hr⟩

theorem wit_soundnessIsKept : oneByte.Sound ∧ ∃ t, step oneByte = .next t :=
  ⟨⟨wit_coherent, fun _ => ⟨fun _ => ⟨_, _, wit_absorbed⟩, fun h => absurd h (by decide)⟩⟩, _, rfl⟩

/-- oneByte with other stale cells after BUF[0]. -/
def oneByteStale : State := { oneByte with buf := (Vector.replicate 64 0xEE#8).set 0 0x61#8, draws := 5 }

theorem wit_hiddenState : oneByte.Coherent ∧ oneByteStale.Coherent ∧ Agree oneByte oneByteStale ∧
    oneByte.pending = oneByteStale.pending ∧ oneByte.rsp = oneByteStale.rsp ∧ oneByte.buf ≠ oneByteStale.buf ∧
    (∃ t, step oneByte = .next t) ∧ (∃ t, step oneByteStale = .next t) :=
  ⟨wit_coherent, wit_coherent, ⟨by decide, by decide, by decide, by decide, by decide, fun _ => by decide⟩,
    by decide, by decide, by decide, ⟨_, rfl⟩, ⟨_, rfl⟩⟩

theorem wit_cores : (0 : Fin 2) ≠ 1 ∧ ∃ y z, Platform.stepAt 0 (Platform.start 2) = .next y ∧ Platform.stepAt 1 y = .next z :=
  ⟨by decide, _, _, rfl, rfl⟩

end Sys2Proof.Tests
end

section
/-! PROOFS. The bits of bytes, and the pending message bits read cell by cell: they fix the P complete bytes of BUF and
the NX high bits of the tail byte, and nothing else of it (10_state.md R19, R32, R33). -/

namespace Sys2Proof.Machine

/-! ## The bits of bytes -/

@[simp] theorem byteBits_length (b : Byte) : (byteBits b).length = 8 := by simp [byteBits]

/-- The first n bits of two bytes agree as lists exactly when they agree bit by bit (R9). -/
theorem byteBits_take_eq_iff {b c : Byte} {n : Nat} (hn : n ≤ 8) :
    (byteBits b).take n = (byteBits c).take n ↔ ∀ j < n, b.getMsbD j = c.getMsbD j := by
  simp [byteBits, ← List.map_take, List.take_range, Nat.min_eq_left hn]

/-- A byte is determined by its bits (R9). -/
theorem byteBits_injective : Function.Injective byteBits := fun _ _ h =>
  BitVec.eq_of_getMsbD_eq ((byteBits_take_eq_iff le_rfl).mp (congrArg (List.take 8) h))

/-- A list of bytes is determined by its bits: each byte takes eight of them (R9). -/
theorem flatMap_byteBits_injective : Function.Injective (List.flatMap byteBits) := by
  intro xs
  induction xs with
  | nil =>
    intro ys h
    cases ys with
    | nil => rfl
    | cons y ys => exact absurd (congrArg List.length h) (by simp; omega)
  | cons x xs ih =>
    intro ys h
    cases ys with
    | nil => exact absurd (congrArg List.length h) (by simp)
    | cons y ys =>
      obtain ⟨hxy, hrest⟩ := List.append_inj h (by simp)
      rw [byteBits_injective hxy, ih hrest]

/-! ## The pending message bits -/

/-- The first n cells of two buffers agree as lists exactly when they agree cell by cell. -/
theorem take_toList_eq_iff {u v : Buffer} {p : Fin 64} :
    u.toList.take p.val = v.toList.take p.val ↔ ∀ k : Fin 64, k < p → u[k] = v[k] := by
  constructor
  · intro h k hk
    simpa [hk] using congrArg (·[k.val]?) h
  · intro h
    refine List.ext_getElem (by simp) fun i hi _ => ?_
    have hip : i < p.val := by simp at hi; omega
    simpa using h ⟨i, by omega⟩ hip

/-- With the same P and NX, two states have the same pending bits exactly when they have the same P complete bytes and
the same NX high bits of the tail byte (R19, R42). -/
theorem pendingBits_eq_iff {s t : State} (hp : s.p = t.p) (hn : s.nx = t.nx) :
    s.pendingBits = t.pendingBits ↔
      (∀ k : Fin 64, k < s.p → s.buf[k] = t.buf[k]) ∧
      ∀ j < s.nx.val, s.buf[s.p].getMsbD j = t.buf[t.p].getMsbD j := by
  rw [← take_toList_eq_iff, ← byteBits_take_eq_iff (by omega)]
  simp only [State.pendingBits, ← hp, ← hn]
  constructor
  · intro h
    obtain ⟨hbytes, htail⟩ := List.append_inj h (by simp)
    exact ⟨flatMap_byteBits_injective hbytes, htail⟩
  · rintro ⟨hbytes, htail⟩
    rw [hbytes, htail]

/-- With no pending byte and no tail there is no pending bit. -/
theorem pendingBits_of_empty {s : State} (hp : s.p = 0) (hn : s.nx = 0) : s.pendingBits = [] := by
  simp [State.pendingBits, hp, hn]

/-! ## The tail byte -/

/-- The tail mask keeps the bits before position NX (R95). -/
theorem tailMask_getMsbD : ∀ nx j : Fin 8, (tailMask nx).getMsbD j.val = decide (j < nx) := by decide

/-- The appended 1 bit stands at position NX (R93). -/
theorem markBit_getMsbD : ∀ nx j : Fin 8, (0x80#8 >>> nx.val).getMsbD j.val = decide (j = nx) := by decide

/-- The marked tail byte, bit by bit: the NX high bits, the 1 bit, zeros (R93, R95). -/
theorem markByte_getMsbD (nx : Fin 8) (b : Byte) (j : Fin 8) :
    (markByte nx b).getMsbD j.val = if j < nx then b.getMsbD j.val else decide (j = nx) := by
  rw [markByte, BitVec.getMsbD_or, BitVec.getMsbD_and, tailMask_getMsbD, markBit_getMsbD]
  by_cases hj : j < nx
  · simp [hj, ne_of_lt hj]
  · simp [hj]

/-- The marked tail byte depends on the NX high bits only (R32, R95). -/
theorem markByte_congr {nx : Fin 8} {b c : Byte} (h : ∀ j < nx.val, b.getMsbD j = c.getMsbD j) :
    markByte nx b = markByte nx c := by
  refine BitVec.eq_of_getMsbD_eq fun j hj => ?_
  have hb := markByte_getMsbD nx b ⟨j, hj⟩
  have hc := markByte_getMsbD nx c ⟨j, hj⟩
  rw [hb, hc]
  split
  next hlt => exact h j hlt
  next => rfl

end Sys2Proof.Machine
end

section
/-! PROOFS. What no response reveals never reaches one (00_scope.md R16): the relation of two states that differ only in
hidden state, kept by every update, every check and every command. -/

namespace Sys2Proof.Machine

/-! ## The relation -/

/-- The same pending message: P, NX and the bits they count, whatever else BUF holds. -/
structure SameMessage (s t : State) : Prop where
  p : s.p = t.p
  nx : s.nx = t.nx
  bits : s.pendingBits = t.pendingBits

/-- Agree, the same host events and the same response, field by field (`alike_iff`). -/
structure Alike (s t : State) : Prop where
  h : s.h = t.h
  bitcnt : s.bitcnt = t.bitcnt
  phase : s.phase = t.phase
  err : s.err = t.err
  errCause : s.errCause = t.errCause
  message : s.phase ≠ .finalized → SameMessage s t
  pending : s.pending = t.pending
  rsp : s.rsp = t.rsp

/-- `Alike` is what the obligation assumes of two states and concludes again. -/
theorem alike_iff {s t : State} : Alike s t ↔ Agree s t ∧ s.pending = t.pending ∧ s.rsp = t.rsp := by
  constructor
  · rintro ⟨hh, hc, hph, he, hec, hm, hpe, hr⟩
    exact ⟨⟨hh, hc, hph, he, hec, fun hf => ⟨(hm hf).p, (hm hf).nx, (hm hf).bits⟩⟩, hpe, hr⟩
  · rintro ⟨⟨hh, hc, hph, he, hec, hm⟩, hpe, hr⟩
    exact ⟨hh, hc, hph, he, hec, fun hf => ⟨(hm hf).1, (hm hf).2.1, (hm hf).2.2⟩, hpe, hr⟩

/-- Two results whose next states, where both have one, are alike. -/
def AlikeResults (r r' : Result) : Prop := ∀ t t', r = .next t → r' = .next t' → Alike t t'

theorem Alike.next {s t : State} (h : Alike s t) : AlikeResults (.next s) (.next t) := by
  rintro u u' hu hu'
  injection hu with hu
  injection hu' with hu'
  exact hu ▸ hu' ▸ h

/-- The complete pending bytes agree cell by cell. -/
theorem SameMessage.cells {s t : State} (h : SameMessage s t) {k : Fin 64} (hk : k < s.p) : s.buf[k] = t.buf[k] :=
  ((pendingBits_eq_iff h.p h.nx).mp h.bits).1 k hk

/-- The meaningful bits of the tail byte agree. -/
theorem SameMessage.tail {s t : State} (h : SameMessage s t) :
    ∀ j < s.nx.val, s.buf[s.p].getMsbD j = t.buf[t.p].getMsbD j :=
  ((pendingBits_eq_iff h.p h.nx).mp h.bits).2

/-- The converse of `cells` and `tail`: what a command that writes the pending message has to show. -/
theorem SameMessage.of_cells {s t : State} (hp : s.p = t.p) (hn : s.nx = t.nx)
    (hcells : ∀ k : Fin 64, k < s.p → s.buf[k] = t.buf[k])
    (htail : ∀ j < s.nx.val, s.buf[s.p].getMsbD j = t.buf[t.p].getMsbD j) : SameMessage s t :=
  ⟨hp, hn, (pendingBits_eq_iff hp hn).mpr ⟨hcells, htail⟩⟩

/-- Two states with no pending byte and no tail hold the same message, the empty one. -/
theorem SameMessage.of_empty {s t : State} (hps : s.p = 0) (hpt : t.p = 0) (hns : s.nx = 0) (hnt : t.nx = 0) :
    SameMessage s t :=
  ⟨hps.trans hpt.symm, hns.trans hnt.symm, (pendingBits_of_empty hps hns).trans (pendingBits_of_empty hpt hnt).symm⟩

/-! ## Responses, faults and checks -/

theorem Alike.responded {s t : State} (h : Alike s t) (w : Word) : Alike (s.responded w) (t.responded w) where
  __ := h
  message hf := ⟨(h.message hf).p, (h.message hf).nx, (h.message hf).bits⟩
  rsp := rfl

/-- The same new cause is reported alike: with the latch and its stored cause the same, so is the response (R124). -/
theorem Alike.faulted {s t : State} (h : Alike s t) (c : Cause) : Alike (s.faulted c) (t.faulted c) := by
  have hc : s.reported c = t.reported c := by simp only [State.reported, h.err, h.errCause]
  exact { h with
    err := rfl
    errCause := hc
    message := fun hf => ⟨(h.message hf).p, (h.message hf).nx, (h.message hf).bits⟩
    rsp := by simp [hc] }

/-- Both states are latched, with the same stored cause, or neither is (R126). -/
theorem Alike.unlessLatched {s t : State} {r r' : Result} (h : Alike s t)
    (hr : s.err = false → AlikeResults r r') : AlikeResults (unlessLatched s r) (unlessLatched t r') := by
  cases he : s.err with
  | false =>
    rw [unlessLatched_of_clear s r he, unlessLatched_of_clear t r' (h.err ▸ he)]
    exact hr he
  | true =>
    rw [unlessLatched_of_latched s r he, unlessLatched_of_latched t r' (h.err ▸ he), ← h.errCause]
    exact (h.faulted _).next

/-- A check that both states pass or both fail takes the same fault in both (R13). -/
theorem Alike.requireElse {s t : State} {r r' : Result} {c c' : Prop} [Decidable c] [Decidable c'] {cause : Cause}
    (h : Alike s t) (hc : c ↔ c') (hr : c → AlikeResults r r') :
    AlikeResults (requireElse c cause s r) (requireElse c' cause t r') := by
  by_cases hs : c
  · rw [requireElse_of c cause s r hs, requireElse_of c' cause t r' (hc.mp hs)]
    exact hr hs
  · rw [requireElse_of_not c cause s r hs, requireElse_of_not c' cause t r' (mt hc.mpr hs)]
    exact (h.faulted _).next

/-! ## Resets -/

/-- After a reset nothing of the two states before it is left but their host events and their responses (R78). -/
theorem alike_toReset {s t : State} (hp : s.pending = t.pending) (hr : s.rsp = t.rsp) :
    Alike s.toReset t.toReset where
  h := rfl
  bitcnt := rfl
  phase := rfl
  err := rfl
  errCause := rfl
  message _ := .of_empty rfl rfl rfl rfl
  pending := hp
  rsp := hr

theorem Alike.resetByInput {s t : State} (h : Alike s t) : Alike (resetByInput s) (resetByInput t) where
  __ := alike_toReset h.pending h.rsp
  message _ := .of_empty rfl rfl rfl rfl
  rsp := rfl

/-- The unspecified BUF of an abandoned command is no pending message (R142). -/
theorem Alike.resetInProgress {s t : State} (h : Alike s t) : Alike (resetInProgress s) (resetInProgress t) where
  __ := h.resetByInput
  message _ := .of_empty rfl rfl rfl rfl

/-! ## FEED_BYTE -/

/-- A write of one cell, by cell (R12). -/
theorem set_get (buf : Buffer) (p : Fin 64) (b : Byte) (k : Fin 64) :
    (buf.set p b)[k] = if k = p then b else buf[k] := by
  simp [Vector.getElem_set, Fin.ext_iff, eq_comm]

/-- A byte written at P: up to and including P the buffers hold the same bytes, whatever the stale cells held. -/
theorem SameMessage.set_cells {s t : State} (h : SameMessage s t) (b : Byte) {k : Fin 64} (hk : k ≤ s.p) :
    (s.buf.set s.p b)[k] = (t.buf.set t.p b)[k] := by
  rw [set_get, set_get, ← h.p]
  split
  next => rfl
  next hne => exact h.cells (lt_of_le_of_ne hk hne)

/-- The whole buffer is message when the 64th byte is written (R82). -/
theorem SameMessage.set_last {s t : State} (h : SameMessage s t) (b : Byte) (hp : s.p = 63) :
    s.buf.set s.p b = t.buf.set t.p b :=
  Vector.ext fun i hi => h.set_cells b (k := ⟨i, hi⟩) (by rw [hp]; exact Fin.le_last _)

/-- The 64th byte compresses the same block, and leaves no pending message (R82, R33). -/
theorem Alike.takeByte_emptied {s t : State} (h : Alike s t) (hm : SameMessage s t) (hn : s.nx = 0) (hp : s.p = 63) (b : Byte) :
    Alike (s.takeByte b).emptied (t.takeByte b).emptied where
  __ := h
  h := congrArg₂ compress h.h (hm.set_last b hp)
  bitcnt := congrArg (· + 8#64) h.bitcnt
  message _ := .of_empty rfl rfl hn (hm.nx ▸ hn)

/-- A byte before the 64th joins the same pending message (R81). -/
theorem Alike.takeByte_withP {s t : State} (h : Alike s t) (hm : SameMessage s t) (hn : s.nx = 0) (b : Byte) :
    Alike ((s.takeByte b).withP (s.p + 1)) ((t.takeByte b).withP (t.p + 1)) where
  __ := h
  bitcnt := congrArg (· + 8#64) h.bitcnt
  message _ := .of_cells (congrArg (· + 1) hm.p) hm.nx
    (fun k (hk : k < s.p + 1) => hm.set_cells b (by omega))
    (fun j hj => by simp [hn] at hj)

theorem Alike.fedByte {s t : State} (h : Alike s t) (hm : SameMessage s t) (hn : s.nx = 0) (b : Byte) :
    Alike (s.fedByte b) (t.fedByte b) := by
  by_cases hp : s.p = 63
  · rw [State.fedByte_last b s hp, State.fedByte_last b t (hm.p ▸ hp)]
    exact h.takeByte_emptied hm hn hp b
  · rw [State.fedByte_open b s hp, State.fedByte_open b t (hm.p ▸ hp)]
    exact h.takeByte_withP hm hn b

theorem Alike.execFeedByte {s t : State} (h : Alike s t) (hn : s.phase = .ready → s.nx = 0) (b : Byte) :
    AlikeResults (execFeedByte b s) (execFeedByte b t) :=
  h.unlessLatched fun _ =>
    h.requireElse (by rw [h.phase]) fun hready =>
      h.requireElse (by rw [State.lengthFits, State.lengthFits, h.bitcnt]) fun _ =>
        ((h.fedByte (h.message (by simp [hready])) (hn hready) b).responded 0#32).next

/-! ## FEED_BITS -/

/-- The tail joins the same pending message; its byte's low bits and the cells after it are no part of it (R32, R85). -/
theorem Alike.fedBits {s t : State} (h : Alike s t) (hm : SameMessage s t) (b : Byte) (n : Fin 8) :
    Alike (s.fedBits b n) (t.fedBits b n) where
  __ := h
  bitcnt := congrArg (· + BitVec.ofNat 64 n.val) h.bitcnt
  phase := rfl
  message _ := .of_cells hm.p rfl (fun _ hk => hm.set_cells b (le_of_lt hk)) (fun j _ => by simp)

theorem Alike.execFeedBits {s t : State} (h : Alike s t) (b : Byte) (n : BitVec 3) :
    AlikeResults (execFeedBits b n s) (execFeedBits b n t) :=
  h.unlessLatched fun _ =>
    h.requireElse (by rw [h.phase]) fun hready =>
      h.requireElse Iff.rfl fun _ =>
        h.requireElse (by rw [State.lengthFits, State.lengthFits, h.bitcnt]) fun _ =>
          ((h.fedBits (h.message (by simp [hready])) b _).responded 0#32).next

/-! ## FINALIZE -/

/-- With the 1 bit placed and the cells after it zero, the buffers are equal: the marked byte keeps the meaningful bits
only, and no stale cell is left (R93 to R97). -/
theorem SameMessage.padMarked_buf {s t : State} (hm : SameMessage s t) : s.padMarked.buf = t.padMarked.buf := by
  refine Vector.ext fun i hi => ?_
  change s.padMarked.buf[(⟨i, hi⟩ : Fin 64)] = t.padMarked.buf[(⟨i, hi⟩ : Fin 64)]
  simp only [State.padMarked_buf, zeroAfter_get, set_get, ← hm.nx, markByte_congr hm.tail]
  rw [hm.p]
  split
  next => rfl
  next hle =>
    split
    next => rfl
    next hne => exact hm.cells (by rw [hm.p]; exact lt_of_le_of_ne (not_lt.mp hle) hne)

/-- The message ends at the same position, so both states compress a first block or neither does (R98). -/
theorem Alike.padSplit_h_buf {s t : State} (h : Alike s t) (hm : SameMessage s t) :
    s.padSplit.h = t.padSplit.h ∧ s.padSplit.buf = t.padSplit.buf := by
  have hpos : s.padPos = t.padPos := by rw [State.padPos, State.padPos, hm.p, hm.nx]
  unfold State.padSplit
  rw [hpos]
  split
  next =>
    simp only [State.padCleared_h, State.padCleared_buf, State.compressed_h, State.padMarked_h, h.h,
      hm.padMarked_buf, and_self]
  next => simp only [State.padMarked_h, h.h, hm.padMarked_buf, and_self]

/-- The same digest, and no pending message: in Finalized P, NX and BUF are unobserved (R37). -/
theorem Alike.padded_losePending {s t : State} (h : Alike s t) (hm : SameMessage s t) :
    Alike s.padded.losePending t.padded.losePending := by
  obtain ⟨hh, hbuf⟩ := h.padSplit_h_buf hm
  constructor
  case h => simp [hh, hbuf, h.bitcnt]
  case message => simp
  all_goals simp [h.bitcnt, h.err, h.errCause, h.pending, h.rsp]

theorem Alike.execFinalize {s t : State} (h : Alike s t) : AlikeResults (execFinalize s) (execFinalize t) :=
  h.unlessLatched fun _ =>
    h.requireElse (by rw [h.phase]) fun hf =>
      ((h.padded_losePending (h.message hf)).responded 0#32).next

/-! ## READ_DIGEST -/

theorem Alike.execReadDigest {s t : State} (h : Alike s t) (k : BitVec 3) :
    AlikeResults (execReadDigest k s) (execReadDigest k t) := by
  refine h.unlessLatched fun _ => ?_
  cases indexOperand k with
  | none => exact (h.faulted .illegalCommand).next
  | some i =>
    refine h.requireElse (by rw [h.phase]) fun _ => ?_
    rw [← h.h]
    exact (h.responded s.h[i]).next

/-! ## Commands and events -/

/-- Every command; of the states' coherence only `NX = 0 in Ready` is needed (R27). -/
theorem Alike.exec {s t : State} (h : Alike s t) (hn : s.phase = .ready → s.nx = 0) (i : Instr) :
    AlikeResults (exec i s) (exec i t) := by
  cases i with
  | reset => exact ((alike_toReset h.pending h.rsp).responded 0#32).next
  | feedByte b => exact h.execFeedByte hn b
  | feedBits b n => exact h.execFeedBits b n
  | finalize => exact h.execFinalize
  | readDigest k => exact h.execReadDigest k

theorem Alike.performWord {s t : State} (h : Alike s t) (hn : s.phase = .ready → s.nx = 0) (w : Word) :
    AlikeResults (performWord w s) (performWord w t) := by
  unfold Machine.performWord
  cases decode w with
  | ok i => exact h.exec hn i
  | error _ => exact h.unlessLatched fun _ => (h.faulted .illegalCommand).next

theorem Alike.takeEvent {s t : State} (h : Alike s t) (hn : s.phase = .ready → s.nx = 0) (e : HostEvent) :
    AlikeResults (takeEvent e s) (takeEvent e t) := by
  cases e with
  | command w => exact h.performWord hn w
  | resetInput => exact h.resetByInput.next
  | resetWith w => exact h.resetByInput.next
  | resetDuring w => exact h.resetInProgress.next
  | powerUp => exact h.resetInProgress.next

theorem Alike.withPending {s t : State} (h : Alike s t) (es : List HostEvent) :
    Alike { s with pending := es } { t with pending := es } where
  __ := h
  message hf := ⟨(h.message hf).p, (h.message hf).nx, (h.message hf).bits⟩
  pending := rfl

/-- The step keeps the relation: the two states take the same event of the host (R51). -/
theorem Alike.step {s t : State} (h : Alike s t) (hn : s.phase = .ready → s.nx = 0) :
    AlikeResults (step s) (step t) := by
  unfold Machine.step nextEvent
  rw [← h.pending]
  cases s.pending with
  | nil => exact h.next
  | cons e rest => exact (h.withPending rest).takeEvent hn e

/-- Settles O55: the step keeps `Alike`, command by command. Of the two states' coherence only NX = 0 in Ready is used,
by FEED_BYTE, whose new pending byte would otherwise have a stale tail after it. -/
theorem hiddenStateStaysHidden : Obligations.HiddenStateStaysHidden := by
  intro s s' t t' hs _ hagree hpending hrsp hstep hstep'
  obtain ⟨hn, -⟩ := hs
  have h : Alike s s' := alike_iff.mpr ⟨hagree, hpending, hrsp⟩
  exact alike_iff.mp (h.step hn t t' hstep hstep')

end Sys2Proof.Machine
end

section
/-! PROOFS. What a command that answers has done: it completed or it took a fault (30_encoding.md R57; 60_exceptions.md
R124). -/

namespace Sys2Proof.Machine

/-! ## The two ends of a command -/

/-- Command i completes with STATUS OK from s and leaves t: its guards and its writes (R78, R81, R85, R88, R91);
`exec_cases` and `exec_of_completes` tie it to `exec`. -/
inductive Completes : Instr → State → State → Prop
  | reset {s : State} : Completes .reset s (s.toReset.responded 0#32)
  | feedByte {b : Byte} {s : State} (clear : s.err = false) (ready : s.phase = .ready) (fits : s.lengthFits 8) :
      Completes (.feedByte b) s ((s.fedByte b).responded 0#32)
  | feedBits {b : Byte} {n : BitVec 3} {s : State} (clear : s.err = false) (ready : s.phase = .ready)
      (range : n ≠ 0#3) (fits : s.lengthFits n.toNat) :
      Completes (.feedBits b n) s ((s.fedBits b n.toFin).responded 0#32)
  | finalize {s : State} (clear : s.err = false) (opened : s.phase ≠ .finalized) :
      Completes .finalize s (s.padded.losePending.responded 0#32)
  | readDigest {k : BitVec 3} {j : Fin 5} {s : State} (clear : s.err = false) (closed : s.phase = .finalized)
      (index : indexOperand k = some j) : Completes (.readDigest k) s (s.responded s.h[j])

/-- A fault is taken from s and leaves t; a new fault has a cause (R121, R124). -/
def Faults (s t : State) : Prop := ∃ c, (s.err = false → c ≠ .none) ∧ t = s.faulted c

/-- A latched core takes its stored cause again (R126). -/
theorem Faults.of_latched {s : State} (he : s.err = true) : Faults s (s.faulted s.errCause) :=
  ⟨_, by simp [he], rfl⟩

theorem Faults.of_cause {s : State} {c : Cause} (hc : c ≠ .none) : Faults s (s.faulted c) := ⟨c, fun _ => hc, rfl⟩

/-- Every command that answers completes or takes a fault. -/
theorem exec_cases {i : Instr} {s t : State} (h : exec i s = .next t) : Completes i s t ∨ Faults s t := by
  cases i with
  | reset =>
    injection h with h
    exact h ▸ .inl .reset
  | feedByte b =>
    obtain ⟨he, rfl⟩ | ⟨-, -, rfl⟩ | ⟨-, -, -, rfl⟩ | ⟨he, hp, hl, rfl⟩ := execFeedByte_cases h
    · exact .inr (.of_latched he)
    · exact .inr (.of_cause (by decide))
    · exact .inr (.of_cause (by decide))
    · exact .inl (.feedByte he hp hl)
  | feedBits b n =>
    obtain ⟨he, rfl⟩ | ⟨-, -, rfl⟩ | ⟨-, -, -, rfl⟩ | ⟨-, -, -, -, rfl⟩ | ⟨he, hp, hn, hl, rfl⟩ :=
      execFeedBits_cases h
    · exact .inr (.of_latched he)
    · exact .inr (.of_cause (by decide))
    · exact .inr (.of_cause (by decide))
    · exact .inr (.of_cause (by decide))
    · exact .inl (.feedBits he hp hn hl)
  | finalize =>
    obtain ⟨he, rfl⟩ | ⟨-, -, rfl⟩ | ⟨he, hp, rfl⟩ := execFinalize_cases h
    · exact .inr (.of_latched he)
    · exact .inr (.of_cause (by decide))
    · exact .inl (.finalize he hp)
  | readDigest k =>
    obtain ⟨he, rfl⟩ | ⟨-, -, rfl⟩ | ⟨-, -, -, rfl⟩ | ⟨he, hp, j, hj, rfl⟩ := execReadDigest_cases h
    · exact .inr (.of_latched he)
    · exact .inr (.of_cause (by decide))
    · exact .inr (.of_cause (by decide))
    · exact .inl (.readDigest he hp hj)

/-- A command whose guards hold answers, with its writes done. -/
theorem exec_of_completes {i : Instr} {s t : State} (h : Completes i s t) : exec i s = .next t := by
  cases h with
  | reset => exact execReset_eq s
  | feedByte he hp hl =>
    exact (unlessLatched_of_clear _ _ he).trans <| (requireElse_of _ _ _ _ hp).trans (requireElse_of _ _ _ _ hl)
  | @feedBits b n _ he hp hn hl =>
    exact (unlessLatched_of_clear _ _ he).trans <| (requireElse_of _ _ _ _ hp).trans <|
      (requireElse_of _ _ _ _ ((countOperand_range n).mpr hn)).trans (requireElse_of _ _ _ _ hl)
  | finalize he hp => exact (unlessLatched_of_clear _ _ he).trans (requireElse_of _ _ _ _ hp)
  | readDigest he hp hj =>
    refine (unlessLatched_of_clear _ _ he).trans ?_
    rw [hj]
    exact requireElse_of _ _ _ _ hp

/-- Every command word that is answered: a command completes, or a fault is taken. -/
theorem performWord_completes_or_faults {w : Word} {s t : State} (h : performWord w s = .next t) :
    (∃ i, decode w = .ok i ∧ Completes i s t) ∨ Faults s t := by
  obtain ⟨i, hd, h⟩ | ⟨-, -, rfl⟩ := performWord_cases h
  · exact (exec_cases h).imp_left fun hi => ⟨i, hd, hi⟩
  · exact .inr ⟨_, fun he => by simp [he], rfl⟩

/-! ## What completing leaves -/

theorem Completes.err {i : Instr} {s t : State} (h : Completes i s t) : t.err = false := by
  cases h <;> simp [*]

theorem Completes.rsp {i : Instr} {s t : State} (h : Completes i s t) :
    ∃ v, t.rsp = some { status := .ok, cause := .none, rdata := v } := by
  cases h <;> exact ⟨_, rfl⟩

/-- Every command but RESET completes only while ERR = 0, and then leaves ERR_CAUSE (R126). -/
theorem Completes.errCause {i : Instr} {s t : State} (h : Completes i s t) (hs : s.err = false → s.errCause = .none) :
    t.errCause = .none := by
  cases h with
  | reset => rfl
  | feedByte he | feedBits he | finalize he | readDigest he => simpa using hs he

/-- No command that completes writes the fault log, RESET included (R39). -/
theorem Completes.faultLog {i : Instr} {s t : State} (h : Completes i s t) : t.faultLog = s.faultLog := by
  cases h <;> simp

end Sys2Proof.Machine
end

section
/-! PROOFS. The invariants between commands (10_state.md R27; 60_exceptions.md R124): those of the counters and those of
the fault latch, kept by what completes, by a fault and by a reset. -/

namespace Sys2Proof.Machine

/-! ## The two parts of Coherent -/

/-- R27 (b), (c), (d): what PHASE, P, NX and BITCNT say of each other. -/
structure State.CountsCoherent (s : State) : Prop where
  ready_nx : s.phase = .ready → s.nx = 0
  awaiting_nx : s.phase = .awaitingPadding → s.nx ≠ 0
  position : s.phase ≠ .finalized → s.bitcnt.toNat % 512 = 8 * s.p.val + s.nx.val
  ready_bitcnt : s.phase = .ready → s.bitcnt.toNat % 8 = 0

/-- The rules of the latch: what ERR, ERR_CAUSE, the fault log and the response say of each other (R24, R39, R66). -/
structure State.LatchCoherent (s : State) : Prop where
  errCause : s.err = true ↔ s.errCause ≠ .none
  faultLog : s.err = true → s.faultLog ≠ none
  rsp : ∀ r, s.rsp = some r → (r.status = .fault ↔ s.err = true) ∧ (r.status = .fault ↔ r.cause ≠ .none)

theorem coherent_iff {s : State} : s.Coherent ↔ s.CountsCoherent ∧ s.LatchCoherent := by
  constructor
  · rintro ⟨hr, ha, hpos, hb, he, hl, hrsp⟩
    exact ⟨⟨hr, ha, hpos, hb⟩, ⟨he, hl, hrsp⟩⟩
  · rintro ⟨⟨hr, ha, hpos, hb⟩, ⟨he, hl, hrsp⟩⟩
    exact ⟨hr, ha, hpos, hb, he, hl, hrsp⟩

/-! ## The counters -/

/-- The counters' rules speak of PHASE, P, NX and BITCNT only. -/
theorem State.CountsCoherent.congr {s t : State} (h : s.CountsCoherent) (hphase : t.phase = s.phase) (hp : t.p = s.p)
    (hnx : t.nx = s.nx) (hbitcnt : t.bitcnt = s.bitcnt) : t.CountsCoherent := by
  constructor
  · rw [hphase, hnx]; exact h.ready_nx
  · rw [hphase, hnx]; exact h.awaiting_nx
  · rw [hphase, hnx, hp, hbitcnt]; exact h.position
  · rw [hphase, hbitcnt]; exact h.ready_bitcnt

/-- At a new message everything is 0 (R36). -/
theorem State.CountsCoherent.of_new {s : State} (hphase : s.phase = .ready) (hp : s.p = 0) (hnx : s.nx = 0)
    (hbitcnt : s.bitcnt = 0#64) : s.CountsCoherent := by
  constructor <;> simp [hphase, hp, hnx, hbitcnt]

/-- In Finalized the counters are free (R37). -/
theorem State.CountsCoherent.of_finalized {s : State} (hphase : s.phase = .finalized) : s.CountsCoherent := by
  constructor <;> simp [hphase]

/-- The counter grows without wrap-around where the length fits (R80). -/
theorem toNat_bitcnt_add {s : State} {n : Nat} (h : s.lengthFits n) :
    (s.bitcnt + BitVec.ofNat 64 n).toNat = s.bitcnt.toNat + n := by
  have := s.bitcnt.isLt
  rw [BitVec.toNat_add, BitVec.toNat_ofNat]
  omega

/-- P counts the byte, modulo the 64 bytes of the buffer (R81). -/
theorem State.fedByte_p (b : Byte) (s : State) : (s.fedByte b).p.val = (s.p.val + 1) % 64 := by
  by_cases hp : s.p = 63
  · rw [State.fedByte_last b s hp, hp]; rfl
  · rw [State.fedByte_open b s hp, State.withP_p, Fin.val_add]; rfl

theorem State.CountsCoherent.fedByte {s : State} (h : s.CountsCoherent) (hr : s.phase = .ready) (hl : s.lengthFits 8)
    (b : Byte) : (s.fedByte b).CountsCoherent := by
  have hn : s.nx.val = 0 := congrArg Fin.val (h.ready_nx hr)
  have hpos := h.position (by simp [hr])
  have hbytes := h.ready_bitcnt hr
  have hsum := toNat_bitcnt_add hl
  constructor
  · simpa using h.ready_nx
  · simp [hr]
  · intro _
    rw [State.fedByte_bitcnt, State.fedByte_nx, State.fedByte_p, hsum]
    omega
  · intro _
    rw [State.fedByte_bitcnt, hsum]
    omega

theorem State.CountsCoherent.fedBits {s : State} (h : s.CountsCoherent) (hr : s.phase = .ready) {n : Fin 8}
    (hn : n ≠ 0) (hl : s.lengthFits n.val) (b : Byte) : (s.fedBits b n).CountsCoherent := by
  have h0 : s.nx.val = 0 := congrArg Fin.val (h.ready_nx hr)
  have hpos := h.position (by simp [hr])
  constructor
  · simp
  · simpa using hn
  · intro _
    rw [State.fedBits_bitcnt, State.fedBits_p, State.fedBits_nx, toNat_bitcnt_add hl]
    omega
  · simp

theorem Completes.countsCoherent {i : Instr} {s t : State} (h : Completes i s t) (hs : s.CountsCoherent) :
    t.CountsCoherent := by
  cases h with
  | reset => exact .of_new rfl rfl rfl rfl
  | @feedByte b _ _ hr hl => exact (hs.fedByte hr hl b).congr rfl rfl rfl rfl
  | @feedBits b n _ _ hr hn hl =>
    have hn0 : n.toFin ≠ 0 := fun h0 => hn (BitVec.eq_of_toFin_eq h0)
    exact (hs.fedBits hr hn0 hl b).congr rfl rfl rfl rfl
  | finalize => exact .of_finalized (by simp)
  | readDigest => exact hs.congr rfl rfl rfl rfl

/-! ## The latch -/

/-- With nothing latched the port may show an OK response or none. -/
theorem State.LatchCoherent.of_clear {s : State} (he : s.err = false) (hc : s.errCause = .none)
    (hr : ∀ r, s.rsp = some r → r.status = .ok ∧ r.cause = .none) : s.LatchCoherent := by
  refine ⟨by simp [he, hc], by simp [he], fun r h => ?_⟩
  obtain ⟨hok, hnone⟩ := hr r h
  simp [he, hok, hnone]

theorem State.LatchCoherent.errCause_of_clear {s : State} (h : s.LatchCoherent) (he : s.err = false) :
    s.errCause = .none := by
  by_contra hc
  simpa [he] using h.errCause.mpr hc

theorem Completes.latchCoherent {i : Instr} {s t : State} (h : Completes i s t) (hs : s.LatchCoherent) :
    t.LatchCoherent := by
  obtain ⟨v, hv⟩ := h.rsp
  refine .of_clear h.err (h.errCause hs.errCause_of_clear) fun r hr => ?_
  cases hv.symm.trans hr
  exact ⟨rfl, rfl⟩

/-- A fault reports a cause: the stored one of a coherent latch, or its own (R124). -/
theorem State.LatchCoherent.reported_ne_none {s : State} {c : Cause} (hs : s.LatchCoherent)
    (hc : s.err = false → c ≠ .none) : s.reported c ≠ .none := by
  cases he : s.err with
  | false => rw [reported_of_clear c s he]; exact hc he
  | true => rw [reported_of_latched c s he]; exact hs.errCause.mp he

theorem Faults.latchCoherent {s t : State} (h : Faults s t) (hs : s.LatchCoherent) : t.LatchCoherent := by
  obtain ⟨c, hc, rfl⟩ := h
  have hr := hs.reported_ne_none hc
  exact ⟨by simpa using hr, by simp, by simpa using hr⟩

/-! ## The step -/

/-- Right after a reset that gives no response: the reset input, power-up (R141, R143). -/
theorem State.Coherent.of_new {s : State} (hphase : s.phase = .ready) (hp : s.p = 0) (hnx : s.nx = 0)
    (hbitcnt : s.bitcnt = 0#64) (he : s.err = false) (hc : s.errCause = .none) (hr : s.rsp = none) : s.Coherent :=
  coherent_iff.mpr ⟨.of_new hphase hp hnx hbitcnt, .of_clear he hc (by simp [hr])⟩

theorem State.Coherent.performWord {w : Word} {s t : State} (hs : s.Coherent) (h : performWord w s = .next t) :
    t.Coherent := by
  obtain ⟨hcounts, hlatch⟩ := coherent_iff.mp hs
  refine coherent_iff.mpr ?_
  obtain ⟨i, -, hi⟩ | hf := performWord_completes_or_faults h
  · exact ⟨hi.countsCoherent hcounts, hi.latchCoherent hlatch⟩
  · refine ⟨?_, hf.latchCoherent hlatch⟩
    obtain ⟨c, -, rfl⟩ := hf
    exact hcounts.congr rfl rfl rfl rfl

/-- The host's coming events are no part of Coherent. -/
theorem State.Coherent.withPending {s : State} (hs : s.Coherent) (es : List HostEvent) :
    { s with pending := es }.Coherent := hs

/-- Settles O49, by what a step can be: idle, a command word, or a reset without a response. -/
theorem coherenceIsKept : Obligations.CoherenceIsKept := by
  intro s t hs h
  obtain ⟨-, rfl⟩ | ⟨e, rest, -, ⟨w, -, hw⟩ | ⟨-, rfl⟩ | ⟨-, rfl⟩⟩ := step_cases h
  · exact hs
  · exact (hs.withPending rest).performWord hw
  · exact .of_new rfl rfl rfl rfl rfl rfl rfl
  · exact .of_new rfl rfl rfl rfl rfl rfl rfl

/-- Settles O50. -/
theorem coherenceHoldsAtReset : Obligations.CoherenceHoldsAtReset := .of_new rfl rfl rfl rfl rfl rfl rfl

/-- A coherent state without a recorded fault has no latch, and shows an OK response or none (R39, R129). -/
theorem State.Coherent.clean {s : State} (hs : s.Coherent) (hlog : s.noFault) :
    s.err = false ∧ s.errCause = .none ∧ ∀ r, s.rsp = some r → r.status = .ok ∧ r.cause = .none := by
  obtain ⟨-, hlatch⟩ := coherent_iff.mp hs
  have he : s.err = false := Bool.eq_false_iff.mpr fun he => hlatch.faultLog he hlog
  refine ⟨he, hlatch.errCause_of_clear he, fun r hr => ?_⟩
  obtain ⟨hstatus, hcause⟩ := hlatch.rsp r hr
  have hok : r.status ≠ .fault := by simpa [he] using hstatus
  refine ⟨?_, by simpa [hok] using hcause⟩
  cases hst : r.status with
  | ok => rfl
  | fault => exact absurd hst hok

/-- Settles O51: the step leaves a coherent state, and a coherent state without a recorded fault is clean. -/
theorem cleanStepIsNotLatched : Obligations.CleanStepIsNotLatched :=
  fun s t hs _ h ht => (coherenceIsKept s t hs h).clean ht

end Sys2Proof.Machine
end

section
/-! PROOFS. Single commands and the whole machine: reset's values, the cell FEED_BYTE writes, the tail's low bits, the
transitions of PHASE, the fault log and the cores of a platform (10_state.md). -/

namespace Sys2Proof.Machine

/-! ## Reset (R36) -/

/-- A step takes the host's first event (R51). -/
theorem step_of_pending {s : State} {e : HostEvent} {rest : List HostEvent} (h : s.pending = e :: rest) :
    step s = takeEvent e { s with pending := rest } := by
  simp only [step, nextEvent, h]

/-- Settles O14. -/
theorem resetLeavesTheResetValues : Obligations.ResetLeavesTheResetValues := by
  refine ⟨?_, fun s => ⟨_, exec_of_completes .reset, ?_⟩, fun s rest h => ⟨_, step_of_pending h, ?_⟩⟩ <;>
    exact ⟨rfl, rfl, rfl, rfl, rfl, rfl, rfl⟩

/-- With nothing pending the empty message is absorbed, in no block (R87). -/
theorem absorbedAs_nil {s : State} (hh : s.h = iv) (hp : s.p = 0) (hnx : s.nx = 0) (hbitcnt : s.bitcnt = 0#64) :
    AbsorbedAs [] [] s := by
  simp [AbsorbedAs, pendingBits_of_empty hp hnx, hh, hbitcnt]

/-- Settles O54. -/
theorem soundnessHoldsAtReset : Obligations.SoundnessHoldsAtReset := by
  refine ⟨coherenceHoldsAtReset, fun _ => ⟨fun _ => ⟨[], [], absorbedAs_nil rfl rfl rfl rfl⟩, fun hf => ?_⟩⟩
  exact absurd hf (by decide)

/-! ## Feeding (R81, R85) -/

/-- Settles O17. -/
theorem feedByteWritesOneCell : Obligations.FeedByteWritesOneCell := by
  intro b s t k he hr hl hp h
  have hfits : s.lengthFits 8 := by unfold State.lengthFits; omega
  rw [exec_of_completes (.feedByte he hr hfits)] at h
  injection h with h
  rw [← h, State.fedByte_open b s hp]
  exact set_get s.buf s.p b k

/-- Bytes with the same n high bits, as numbers, agree in each of those bits. -/
theorem getMsbD_eq_of_div_eq {b c : Byte} {n j : Nat} (hn : n ≤ 8) (hj : j < n)
    (h : b.toNat / 2 ^ (8 - n) = c.toNat / 2 ^ (8 - n)) : b.getMsbD j = c.getMsbD j := by
  have hbit : n - 1 - j + (8 - n) = 7 - j := by omega
  have hj8 : j < 8 := by omega
  have := congrArg (Nat.testBit · (n - 1 - j)) h
  simpa [Nat.testBit_div_two_pow, hbit, BitVec.getMsbD, BitVec.getLsbD, hj8] using this

/-- Two tail bytes with the same n high bits make the same message (R32). -/
theorem sameMessage_fedBits {b c : Byte} {n : Fin 8} (s : State)
    (h : b.toNat / 2 ^ (8 - n.val) = c.toNat / 2 ^ (8 - n.val)) : SameMessage (s.fedBits b n) (s.fedBits c n) := by
  refine .of_cells rfl rfl (fun k (hk : k < s.p) => ?_) fun j (hj : j < n.val) => ?_
  · simp only [State.fedBits_buf, set_get, if_neg (ne_of_lt hk)]
  · simpa using getMsbD_eq_of_div_eq (by omega) hj h

/-- Settles O21: the bytes differ below the tail only, which is no part of the pending message. -/
theorem tailLowBitsAreUnobservable : Obligations.TailLowBitsAreUnobservable := by
  intro b b' n s t t' he hr hn hl hdiv h h'
  have hfits : s.lengthFits n.toNat := by have := n.isLt; unfold State.lengthFits; omega
  rw [exec_of_completes (.feedBits he hr hn hfits)] at h h'
  injection h with h
  injection h' with h'
  subst h h'
  obtain ⟨hp, hnx, hbits⟩ := sameMessage_fedBits (n := n.toFin) s hdiv
  exact ⟨rfl, rfl, rfl, rfl, rfl, fun _ => ⟨hp, hnx, hbits⟩⟩

/-! ## PHASE (R25) -/

/-- A fault leaves PHASE and answers its cause (R25, R124). -/
theorem Faults.phase_rsp {s t : State} (h : Faults s t) :
    t.phase = s.phase ∧ ∃ c, t.rsp = some (faultResponse c) := by
  obtain ⟨c, -, rfl⟩ := h
  exact ⟨rfl, _, rfl⟩

/-- Settles O48: what completes is a row of the table, and all else is a fault. -/
theorem phaseTransitionsFollowTheTable : Obligations.PhaseTransitionsFollowTheTable := by
  refine ⟨fun i s t h => ?_, fun s => ⟨_, exec_of_completes .reset, rfl, rfl⟩,
    fun b s he hr hl => ⟨_, exec_of_completes (.feedByte he hr hl), by simpa using hr, rfl⟩,
    fun b n s he hr hn hl => ⟨_, exec_of_completes (.feedBits he hr hn hl), rfl, rfl⟩,
    fun s he hp => ⟨_, exec_of_completes (.finalize he hp), by simp, rfl⟩, fun k s he hp hk => ?_⟩
  · obtain hc | hf := exec_cases h
    · cases hc with
      | reset => exact .inl ⟨rfl, rfl⟩
      | feedByte _ hr => exact .inr (.inl ⟨⟨_, rfl⟩, hr, by simpa using hr⟩)
      | feedBits _ hr hn => exact .inr (.inr (.inl ⟨⟨_, _, rfl, hn⟩, hr, rfl⟩))
      | finalize _ hp =>
        cases hs : s.phase with
        | ready => exact .inr (.inr (.inr (.inl ⟨rfl, rfl, by simp⟩)))
        | awaitingPadding => exact .inr (.inr (.inr (.inr (.inl ⟨rfl, rfl, by simp⟩))))
        | finalized => exact absurd hs hp
      | readDigest _ hp => exact .inr (.inr (.inr (.inr (.inr (.inl ⟨⟨_, rfl⟩, hp, hp⟩)))))
    · exact .inr (.inr (.inr (.inr (.inr (.inr hf.phase_rsp)))))
  · obtain ⟨j, hj, -⟩ := indexOperand_of_le k hk
    exact ⟨_, _, exec_of_completes (.readDigest he hp hj), hp, rfl, rfl⟩

/-! ## The fault log (R39) -/

theorem Faults.faultLog_of_some {s t : State} {c : Cause} (h : Faults s t) (hlog : s.faultLog = some c) :
    t.faultLog = some c := by
  obtain ⟨d, -, rfl⟩ := h
  simp [hlog]

/-- The first fault is logged with the cause it reports. -/
theorem Faults.faultLog_of_none {s t : State} (h : Faults s t) (hlog : s.faultLog = none) :
    ∃ c, t.faultLog = some c ∧ t.rsp = some (faultResponse c) := by
  obtain ⟨d, -, rfl⟩ := h
  exact ⟨s.reported d, by simp [hlog], rfl⟩

theorem performWord_faultLog_of_some {w : Word} {s t : State} {c : Cause} (h : performWord w s = .next t)
    (hlog : s.faultLog = some c) : t.faultLog = some c := by
  obtain ⟨i, -, hi⟩ | hf := performWord_completes_or_faults h
  · rw [hi.faultLog, hlog]
  · exact hf.faultLog_of_some hlog

/-- Settles O44: completing keeps the log, a fault writes it once, and no reset clears it. -/
theorem faultLogKeepsTheFirstFault : Obligations.FaultLogKeepsTheFirstFault := by
  refine ⟨fun s t c h hlog => ?_, fun w s t r hlog h hr => ?_⟩
  · obtain ⟨-, rfl⟩ | ⟨e, rest, -, ⟨w, -, hw⟩ | ⟨-, rfl⟩ | ⟨-, rfl⟩⟩ := step_cases h
    · exact hlog
    · exact performWord_faultLog_of_some hw hlog
    · exact hlog
    · exact hlog
  · obtain ⟨i, -, hi⟩ | hf := performWord_completes_or_faults h
    · obtain ⟨v, hv⟩ := hi.rsp
      cases hr.symm.trans hv
      exact ⟨nofun, fun _ => hi.faultLog.trans hlog⟩
    · obtain ⟨c, hc, hv⟩ := hf.faultLog_of_none hlog
      cases hr.symm.trans hv
      exact ⟨fun _ => hc, nofun⟩

/-! ## Platforms (R40, R56) -/

/-- A core's step on the platform is its own step, put back in its place. -/
theorem stepAt_eq_next_iff {n : Nat} {i : Fin n} {x y : Platform n} :
    Platform.stepAt i x = .next y ↔ ∃ s, step x[i] = .next s ∧ x.set i s = y := by
  unfold Platform.stepAt
  cases step x[i] <;> simp

/-- Settles O57: the steps write different places of the vector. -/
theorem coresAreIndependent : Obligations.CoresAreIndependent := by
  intro n i j x y z hij hi hj
  have hne : i.val ≠ j.val := fun h => hij (Fin.ext h)
  obtain ⟨s, hs, rfl⟩ := stepAt_eq_next_iff.mp hi
  obtain ⟨t, ht, rfl⟩ := stepAt_eq_next_iff.mp hj
  have hother : (x.set i s)[j] = x[j] := Vector.getElem_set_ne i.isLt j.isLt hne
  have hother' : (x.set j t)[i] = x[i] := Vector.getElem_set_ne j.isLt i.isLt hne.symm
  rw [hother] at ht
  refine ⟨hother, by simpa using hs, x.set j t, stepAt_eq_next_iff.mpr ⟨t, ht, rfl⟩,
    stepAt_eq_next_iff.mpr ⟨s, hother' ▸ hs, ?_⟩⟩
  exact Vector.set_comm t s hne.symm

end Sys2Proof.Machine
end

section
/-! PROOFS. What a state keeps between commands: the digest in Finalized, and the reset state under a second RESET
(20_memory.md R49, R50). -/

namespace Sys2Proof.Machine

/-! ## Finalized (R49, R89) -/

/-- In Finalized no command but RESET and READ_DIGEST completes, and READ_DIGEST only responds (R25, R88). -/
theorem Completes.responds_of_finalized {i : Instr} {s t : State} (h : Completes i s t) (hf : s.phase = .finalized)
    (hi : i ≠ .reset) : ∃ w, t = s.responded w := by
  cases h with
  | reset => exact absurd rfl hi
  | feedByte _ hready | feedBits _ hready => simp [hf] at hready
  | finalize _ hopened => exact absurd hf hopened
  | readDigest => exact ⟨_, rfl⟩

/-- Settles O24: in Finalized a command other than RESET only responds or takes a fault, and neither writes H or
PHASE. -/
theorem digestStaysUntilReset : Obligations.DigestStaysUntilReset := by
  intro i s t hf hi h
  obtain hc | ⟨c, -, rfl⟩ := exec_cases h
  · obtain ⟨w, rfl⟩ := hc.responds_of_finalized hf hi
    exact ⟨State.responded_h w s, hf⟩
  · exact ⟨State.faulted_h c s, hf⟩

/-! ## RESET (R50) -/

/-- A reset core that has responded w is left as it was by one more reset that responds w (R78). -/
theorem toReset_responded_toReset (w : Word) (s : State) :
    (s.toReset.responded w).toReset.responded w = s.toReset.responded w := rfl

/-- Settles O15: the first RESET has written every value that the second one writes. -/
theorem resetIsIdempotent : Obligations.ResetIsIdempotent := by
  intro s t h
  obtain rfl : s.toReset.responded 0#32 = t := by simpa [exec_of_completes .reset] using h
  rw [exec_of_completes .reset, toReset_responded_toReset]

end Sys2Proof.Machine
end

section
/-! PROOFS. The encoder and the decoder (30_encoding.md R58 to R70): a word laid out by `cmd32` as a number, its fields,
and the illegal words as those that encode no command. -/

namespace Sys2Proof

open Machine

/-! ## The fields of a word -/

/-- Three fields joined without overlap, the middle one j bits wide and the last one i, are a sum. -/
theorem or_fields_eq_add (a : Nat) {b c i j : Nat} (hb : b < 2 ^ j) (hc : c < 2 ^ i) :
    a <<< (j + i) ||| b <<< i ||| c = 2 ^ (j + i) * a + 2 ^ i * b + c := by
  rw [Nat.shiftLeft_add, ← Nat.shiftLeft_or_distrib, ← Nat.shiftLeft_add_eq_or_of_lt hb,
    ← Nat.shiftLeft_add_eq_or_of_lt hc]
  simp only [Nat.shiftLeft_eq]
  ring

/-- A word laid out from its fields, as a number (R58). -/
theorem cmd32_toNat (data : Byte) (arg : BitVec 3) (op : BitVec 4) :
    (cmd32 data arg op).toNat = 256 * data.toNat + 16 * arg.toNat + op.toNat := by
  have harg := arg.isLt
  have hd : (data.setWidth 32 <<< 8).toNat = data.toNat <<< 8 := by simp; omega
  have ha : (arg.setWidth 32 <<< 4).toNat = arg.toNat <<< 4 := by simp; omega
  have ho : (op.setWidth 32).toNat = op.toNat := by simp; omega
  rw [cmd32, BitVec.toNat_or, BitVec.toNat_or, hd, ha, ho]
  exact or_fields_eq_add _ (j := 4) (by omega) op.isLt

/-- A field of a word, as a number (R58). -/
theorem field_toNat {width : Nat} (w : BitVec width) (i n : Nat) :
    (w.extractLsb' i n).toNat = w.toNat / 2 ^ i % 2 ^ n := by
  simp [Nat.shiftRight_eq_div_pow]

@[simp] theorem argField_cmd32 (data : Byte) (arg : BitVec 3) (op : BitVec 4) :
    argField (cmd32 data arg op) = arg := by
  apply BitVec.eq_of_toNat_eq
  rw [argField, field_toNat, cmd32_toNat]
  omega

@[simp] theorem dataField_cmd32 (data : Byte) (arg : BitVec 3) (op : BitVec 4) :
    dataField (cmd32 data arg op) = data := by
  apply BitVec.eq_of_toNat_eq
  rw [dataField, field_toNat, cmd32_toNat]
  omega

@[simp] theorem opField_cmd32 (data : Byte) (arg : BitVec 3) (op : BitVec 4) : opField (cmd32 data arg op) = op :=
  (Laws.Layout.cmd32_fields data arg op).1

@[simp] theorem reservedClear_cmd32 (data : Byte) (arg : BitVec 3) (op : BitVec 4) :
    reservedClear (cmd32 data arg op) = true :=
  (Laws.Layout.cmd32_fields data arg op).2

/-- A word whose reserved fields are clear is laid out from the other three (R58). -/
theorem cmd32_of_fields {w : Word} {data : Byte} {arg : BitVec 3} {op : BitVec 4} (hclear : reservedClear w = true)
    (hop : opField w = op) (harg : argField w = arg) (hdata : dataField w = data) : cmd32 data arg op = w := by
  obtain ⟨hr0, hr1⟩ : rsv0Field w = 0#1 ∧ rsv1Field w = 0#16 := by simpa [reservedClear] using hclear
  have hr0 := (field_toNat w 7 1).symm.trans (congrArg BitVec.toNat hr0)
  have hr1 := (field_toNat w 16 16).symm.trans (congrArg BitVec.toNat hr1)
  have hop := (field_toNat w 0 4).symm.trans (congrArg BitVec.toNat hop)
  have harg := (field_toNat w 4 3).symm.trans (congrArg BitVec.toNat harg)
  have hdata := (field_toNat w 8 8).symm.trans (congrArg BitVec.toNat hdata)
  have hw := w.isLt
  apply BitVec.eq_of_toNat_eq
  rw [cmd32_toNat]
  simp at hr0 hr1
  omega

/-! ## Round trips -/

/-- Settles O1: the decoder finds in the word each field the encoder put there. -/
theorem decodeOfEncodeIsTheCommand : Obligations.DecodeOfEncodeIsTheCommand := by
  intro i hi
  cases i with
  | readDigest k =>
    have hk : k ≤ 4#3 := by simpa [Instr.wellFormed] using hi
    simp [decode, encode, hk]
  | reset | feedByte b | feedBits b n | finalize =>
    simp [decode, encode]

/-- Settles O2: each branch of the decoder that gives a command has read every field of its word. -/
theorem encodeOfDecodeIsTheWord : Obligations.EncodeOfDecodeIsTheWord := by
  intro w i h
  simp only [decode, Bool.and_eq_true, beq_iff_eq] at h
  split_ifs at h with h1 hc h2 hc h3 hc h4 hc h5 hc hk <;> cases h
  · obtain ⟨⟨hclear, harg⟩, hdata⟩ := hc
    exact ⟨rfl, cmd32_of_fields hclear h1 harg hdata⟩
  · obtain ⟨hclear, harg⟩ := hc
    exact ⟨rfl, cmd32_of_fields hclear h2 harg rfl⟩
  · exact ⟨rfl, cmd32_of_fields hc h3 rfl rfl⟩
  · obtain ⟨⟨hclear, harg⟩, hdata⟩ := hc
    exact ⟨rfl, cmd32_of_fields hclear h4 harg hdata⟩
  · obtain ⟨hclear, hdata⟩ := hc
    exact ⟨decide_eq_true hk, cmd32_of_fields hclear h5 rfl hdata⟩

/-- Settles O3. -/
theorem encodedWordsFollowTheFormulas : Obligations.EncodedWordsFollowTheFormulas := by
  refine ⟨rfl, fun b => ?_, fun b n => rfl, rfl, fun k => ?_⟩ <;> simp [encode, cmd32]

/-- Settles O4: the words have numerals for their fields. -/
theorem sampleWordsDecode : Obligations.SampleWordsDecode := by
  unfold Obligations.SampleWordsDecode
  decide

/-! ## Illegal words -/

/-- A word that encodes no command takes ILLEGAL_COMMAND while ERR = 0 (R67, R70, R125). -/
theorem performWord_of_not_encoded {w : Word} {s : State} (hw : ∀ i : Instr, i.wellFormed = true → encode i ≠ w)
    (he : s.err = false) : ∃ t, performWord w s = .next t ∧ FaultTaken .illegalCommand s t := by
  cases hd : decode w with
  | ok i =>
    obtain ⟨hi, henc⟩ := encodeOfDecodeIsTheWord w i hd
    exact absurd henc (hw i hi)
  | error r =>
    refine ⟨s.faulted .illegalCommand, ?_, ?_⟩
    · simp [performWord, hd, illegalWord_eq, he]
    · simpa [reported_of_clear _ s he] using faulted_faultTaken .illegalCommand s

/-- Settles O5: the opcode of an encoded word is 1 to 5. -/
theorem reservedOpcodesRaiseIllegalCommand : Obligations.ReservedOpcodesRaiseIllegalCommand := by
  intro w s hop he
  refine performWord_of_not_encoded (fun i _ hi => ?_) he
  subst hi
  change opField (encode i) = 0x0#4 ∨ 0x6#4 ≤ opField (encode i) at hop
  cases i <;> simp [encode] at hop

/-- Settles O6: an encoded word has zeros in the fields its command does not use. -/
theorem reservedFieldsRaiseIllegalCommand : Obligations.ReservedFieldsRaiseIllegalCommand := by
  intro w s hw he
  refine performWord_of_not_encoded (fun i hi hiw => ?_) he
  subst hiw
  simp only [BitVec.toNat_eq, ne_eq, BitVec.lt_def, field_toNat] at hw
  cases i with
  | readDigest k =>
    have hk : k.toNat ≤ 4 := by simpa [Instr.wellFormed, BitVec.le_def] using hi
    simp [encode, cmd32_toNat] at hw
    omega
  | feedByte | feedBits =>
    simp [encode, cmd32_toNat] at hw
    omega
  | reset | finalize =>
    simp [encode, cmd32_toNat] at hw

end Sys2Proof
end

section
/-! PROOFS. What a command answers, as the port packs it (30_encoding.md R66), and the assembler's table (R73). -/

namespace Sys2Proof.Machine

/-! ## Responses (R66) -/

/-- A packed response as a number: RDATA below, then CAUSE, then STATUS (R66). -/
theorem pack_toNat (r : Response) :
    r.pack.toNat = 2 ^ 36 * r.status.code.toNat + 2 ^ 32 * r.cause.code.toNat + r.rdata.toNat := by
  have hs : (r.status.code.setWidth 64 <<< 36).toNat = r.status.code.toNat <<< 36 := by simp; omega
  have hc : (r.cause.code.setWidth 64 <<< 32).toNat = r.cause.code.toNat <<< 32 := by simp; omega
  have hd : (r.rdata.setWidth 64).toNat = r.rdata.toNat := by simp; omega
  rw [Response.pack, BitVec.toNat_or, BitVec.toNat_or, hs, hc, hd]
  exact or_fields_eq_add r.status.code.toNat (j := 4) (i := 32) r.cause.code.isLt r.rdata.isLt

/-- Each field of a packed response is where R66 puts it, and nothing is above them. -/
theorem pack_fields (r : Response) :
    r.pack.extractLsb' 0 32 = r.rdata ∧ r.pack.extractLsb' 32 4 = r.cause.code ∧
      r.pack.extractLsb' 36 1 = r.status.code ∧ r.pack.extractLsb' 37 27 = 0#27 := by
  simp only [BitVec.toNat_eq, field_toNat, pack_toNat]
  have hstatus := r.status.code.isLt
  have hcause := r.cause.code.isLt
  have hdata := r.rdata.isLt
  refine ⟨?_, ?_, ?_, ?_⟩ <;> simp <;> omega

theorem indexOperand_val {k : BitVec 3} {j : Fin 5} (h : indexOperand k = some j) : j.val = k.toNat := by
  unfold indexOperand at h
  split at h
  next => cases h; rfl
  next => cases h

/-- READ_DIGEST answers the word of H that its operand names (R88). -/
theorem Completes.rsp_of_readDigest {k : BitVec 3} {s t : State} (h : Completes (.readDigest k) s t) :
    ∃ j : Fin 5, j.val = k.toNat ∧ t.rsp = some { status := .ok, cause := .none, rdata := s.h[j] } := by
  cases h with
  | readDigest _ _ hj => exact ⟨_, indexOperand_val hj, rfl⟩

/-- Every other command answers no data (R66). -/
theorem Completes.rsp_of_ne_readDigest {i : Instr} {s t : State} (h : Completes i s t)
    (hi : ∀ k, i ≠ .readDigest k) : t.rsp = some okResponse := by
  cases h with
  | readDigest => exact absurd rfl (hi _)
  | reset | feedByte | feedBits | finalize => rfl

/-- Settles O46: the packing by its three fields' places, the response by whether the command completed. -/
theorem responseFormat : Obligations.ResponseFormat := by
  refine ⟨pack_fields, rfl, rfl, fun w s t r h hr => ?_⟩
  obtain ⟨i, hd, hi⟩ | hf := performWord_completes_or_faults h
  · obtain ⟨v, hv⟩ := hi.rsp
    cases hr.symm.trans hv
    refine ⟨fun _ => rfl, fun k hk _ => ?_, ?_⟩
    · cases hd.symm.trans hk
      obtain ⟨j, hj, hrsp⟩ := hi.rsp_of_readDigest
      cases hv.symm.trans hrsp
      exact ⟨j, hj, rfl⟩
    · rintro (hfault | hne)
      · cases hfault
      · have hok := hi.rsp_of_ne_readDigest fun k hk => hne k (hk ▸ hd)
        cases hv.symm.trans hok
        rfl
  · obtain ⟨-, c, hc⟩ := hf.phase_rsp
    cases hr.symm.trans hc
    exact ⟨nofun, fun _ _ => nofun, fun _ => rfl⟩

/-! ## The assembler (R73) -/

/-- Settles O58: the two ranges of `feedb` and `feedx` by whether the operand is in them. -/
theorem assemblerFollowsTheTable : Obligations.AssemblerFollowsTheTable := by
  refine ⟨rfl, rfl, fun b => ?_, fun b n => ?_, fun k => rfl⟩
  · by_cases hb : b ≤ 255 <;> simp [assembleOps, asByte, hb]
  · by_cases hb : b ≤ 255 <;> by_cases hn : n ≤ 7 <;> simp [assembleOps, asByte, hb, hn]

end Sys2Proof.Machine
end

section
/-! PROOFS. Command sequences by their words, and the results of `digest` and `hash` where no digest is computed
(30_encoding.md R75, R76; 60_exceptions.md R126). -/

namespace Sys2Proof.Machine

/-! ## One command by its word -/

/-- The word of a command runs the command (R77). -/
theorem performWord_encode {i : Instr} (hi : i.wellFormed = true) (s : State) :
    performWord (encode i) s = exec i s := by
  simp [performWord, decodeOfEncodeIsTheCommand i hi]

/-- Only commands that have a word complete (R69). -/
theorem Completes.wellFormed {i : Instr} {s t : State} (h : Completes i s t) : i.wellFormed = true := by
  cases h with
  | @readDigest k j _ _ _ hj =>
    have hk := indexOperand_val hj
    exact decide_eq_true (BitVec.le_def.mpr (by simp; omega))
  | reset | feedByte | feedBits | finalize => rfl

theorem Completes.performWord {i : Instr} {s t : State} (h : Completes i s t) : performWord (encode i) s = .next t :=
  (performWord_encode h.wellFormed s).trans (exec_of_completes h)

/-! ## Every command word is answered (R57) -/

theorem unlessLatched_total {s : State} {r : Result} (h : ∃ t, r = .next t) : ∃ t, unlessLatched s r = .next t := by
  unfold unlessLatched
  split
  · exact ⟨_, rfl⟩
  · exact h

theorem requireElse_total {p : Prop} [Decidable p] {c : Cause} {s : State} {r : Result} (h : ∃ t, r = .next t) :
    ∃ t, requireElse p c s r = .next t := by
  unfold requireElse
  split
  · exact h
  · exact ⟨_, rfl⟩

theorem exec_total (i : Instr) (s : State) : ∃ t, exec i s = .next t := by
  cases i with
  | reset => exact ⟨_, rfl⟩
  | feedByte b => exact unlessLatched_total (requireElse_total (requireElse_total ⟨_, rfl⟩))
  | feedBits b n => exact unlessLatched_total (requireElse_total (requireElse_total (requireElse_total ⟨_, rfl⟩)))
  | finalize => exact unlessLatched_total (requireElse_total ⟨_, rfl⟩)
  | readDigest k =>
    refine unlessLatched_total ?_
    cases indexOperand k with
    | none => exact ⟨_, rfl⟩
    | some j => exact requireElse_total ⟨_, rfl⟩

theorem performWord_total (w : Word) (s : State) : ∃ t, performWord w s = .next t := by
  unfold performWord
  cases decode w with
  | ok i => exact exec_total i s
  | error r => exact ⟨_, illegalWord_eq s⟩

theorem performWords_total (ws : List Word) (s : State) : ∃ t, performWords ws s = .next t := by
  induction ws generalizing s with
  | nil => exact ⟨s, rfl⟩
  | cons w ws ih =>
    obtain ⟨u, hu⟩ := performWord_total w s
    obtain ⟨t, ht⟩ := ih u
    exact ⟨t, (performWords_cons ws hu).trans ht⟩

/-! ## A latched core (R126) -/

/-- ERR = 1 with this cause stored. -/
def State.Latched (c : Cause) (s : State) : Prop := s.err = true ∧ s.errCause = c

theorem State.Latched.faulted {c : Cause} {s : State} (h : s.Latched c) : (s.faulted s.errCause).Latched c :=
  ⟨rfl, by simp [State.reported, h.2]⟩

theorem performWord_of_latched {w : Word} {s : State} (he : s.err = true) (hw : decode w ≠ .ok .reset) :
    performWord w s = .next (s.faulted s.errCause) := by
  unfold performWord
  cases hd : decode w with
  | ok i =>
    cases i with
    | reset => exact absurd hd hw
    | feedByte | feedBits | finalize | readDigest => exact unlessLatched_of_latched s _ he
  | error r => exact unlessLatched_of_latched s _ he

/-- Without a RESET among them, commands leave a latched core latched, with its stored cause. -/
theorem State.Latched.performWords {c : Cause} {is : List Instr} {s : State} (h : s.Latched c)
    (his : ∀ i ∈ is, i.wellFormed = true ∧ i ≠ .reset) :
    ∃ t, performWords (is.map encode) s = .next t ∧ t.Latched c := by
  induction is generalizing s with
  | nil => exact ⟨s, rfl, h⟩
  | cons i is ih =>
    obtain ⟨⟨hi, hne⟩, his⟩ := List.forall_mem_cons.mp his
    have hw : decode (encode i) ≠ .ok .reset := by simpa [decodeOfEncodeIsTheCommand i hi] using hne
    obtain ⟨t, ht, hl⟩ := ih h.faulted his
    exact ⟨t, (performWords_cons _ (performWord_of_latched h.1 hw)).trans ht, hl⟩

/-! ## The result of `digest` (R75) -/

/-- Only READ_DIGEST's response is picked. -/
theorem digestResponses_of_ne {i : Instr} (hi : ∀ k, i ≠ .readDigest k) (is : List Instr) (r : Option Response)
    (rs : List (Option Response)) : digestResponses (i :: is) (r :: rs) = digestResponses is rs := by
  cases i with
  | readDigest k => exact absurd rfl (hi k)
  | reset | feedByte | feedBits | finalize => rfl

/-- Commands before the first READ_DIGEST have no part in the result but the state they leave. -/
theorem pseudoResult_append {pre : List Instr} (is : List Instr) {s t : State} (hpre : ∀ k, .readDigest k ∉ pre)
    (h : performWords (pre.map encode) s = .next t) : pseudoResult (pre ++ is) s = pseudoResult is t := by
  induction pre generalizing s with
  | nil =>
    injection h with h
    rw [List.nil_append, h]
  | cons i pre ih =>
    obtain ⟨u, hu⟩ := performWord_total (encode i) s
    rw [List.map_cons, performWords_cons _ hu] at h
    have hi : ∀ k, i ≠ .readDigest k := fun k hk => hpre k (by simp [hk])
    rw [← ih (fun k hk => hpre k (List.mem_cons_of_mem i hk)) h]
    simp only [pseudoResult, List.cons_append, List.map_cons, responsesTo_cons _ hu, digestResponses_of_ne hi]

theorem digestResponses_of_no_readDigest {is : List Instr} (his : ∀ k, .readDigest k ∉ is)
    (rs : List (Option Response)) : digestResponses is rs = [] := by
  induction is generalizing rs with
  | nil => rfl
  | cons i is ih =>
    have hi : ∀ k, i ≠ .readDigest k := fun k hk => his k (by simp [hk])
    cases rs with
    | nil => cases i <;> rfl
    | cons r rs => rw [digestResponses_of_ne hi, ih fun k hk => his k (List.mem_cons_of_mem i hk)]

/-- The first READ_DIGEST that faults gives the result (R75). -/
theorem pseudoResult_readDigest_fault {k : BitVec 3} {c : Cause} (is : List Instr) {s t : State}
    (h : performWord (encode (.readDigest k)) s = .next t) (ht : t.rsp = some (faultResponse c)) :
    pseudoResult (.readDigest k :: is) s = .error c := by
  rw [pseudoResult, List.map_cons, responsesTo_cons _ h, ht]
  rfl

/-- A well-formed READ_DIGEST outside Finalized (R88). -/
theorem performWord_readDigest_of_not_finalized {k : BitVec 3} {s : State} (he : s.err = false)
    (hf : s.phase ≠ .finalized) (hk : k ≤ 4#3) :
    performWord (encode (.readDigest k)) s = .next (s.faulted .digestPhase) := by
  obtain ⟨j, hj, -⟩ := indexOperand_of_le k hk
  have hwf : (Instr.readDigest k).wellFormed = true := decide_eq_true hk
  refine (performWord_encode hwf s).trans ((unlessLatched_of_clear _ _ he).trans ?_)
  rw [hj]
  exact requireElse_of_not _ _ _ _ hf

/-- The READ_DIGEST commands of a list of word indexes. -/
def readCmds (js : List (Fin 5)) : List Instr := js.map fun j => .readDigest (BitVec.ofNat 3 j.val)

theorem digestCmds_eq : digestCmds = readCmds (List.finRange 5) := by decide

theorem indexOperand_ofNat : ∀ j : Fin 5, indexOperand (BitVec.ofNat 3 j.val) = some j := by decide

/-- In Finalized every READ_DIGEST answers its word of H, which stays as it is (R88, R89). -/
theorem readCmds_answer (js : List (Fin 5)) {s : State} (he : s.err = false) (hf : s.phase = .finalized) :
    ∃ t, performWords ((readCmds js).map encode) s = .next t ∧
      responsesTo ((readCmds js).map encode) s =
        js.map (fun j => some { status := .ok, cause := .none, rdata := s.h[j] }) ∧
      t.faultLog = s.faultLog := by
  induction js generalizing s with
  | nil => exact ⟨s, rfl, rfl, rfl⟩
  | cons j js ih =>
    have hj := (Completes.readDigest he hf (indexOperand_ofNat j)).performWord
    obtain ⟨t, ht, hr, hl⟩ := ih (s := s.responded s.h[j]) he hf
    refine ⟨t, (performWords_cons _ hj).trans ht, ?_, hl⟩
    exact (responsesTo_cons _ hj).trans (congrArg _ hr)

/-- Five READ_DIGESTs, and then commands that read no digest (R75). -/
theorem pseudoResult_digestCmds {is : List Instr} (s : State) (his : ∀ k, .readDigest k ∉ is) :
    pseudoResult (digestCmds ++ is) s =
      if s.err then .error s.errCause
      else if s.phase = .finalized then .ok (digestBytes s.h) else .error .digestPhase := by
  cases he : s.err with
  | true =>
    refine pseudoResult_readDigest_fault _ (performWord_of_latched he (by decide)) ?_
    simp [faultResponse, reported_of_latched _ s he]
  | false =>
    by_cases hf : s.phase = .finalized
    · obtain ⟨t, ht, hr, -⟩ := readCmds_answer (List.finRange 5) he hf
      rw [← digestCmds_eq] at ht hr
      rw [pseudoResult, List.map_append, responsesTo_append _ ht, hr]
      simp [digestCmds, List.finRange_succ, digestResponses_of_no_readDigest his, hf, ← digestResult_words]
    · simp only [hf, Bool.false_eq_true, if_false]
      refine pseudoResult_readDigest_fault _ (performWord_readDigest_of_not_finalized he hf (by decide)) ?_
      simp [faultResponse, reported_of_clear _ s he]

/-! ## The commands of `hash` (R76) -/

/-- `hash` up to its FINALIZE. -/
def hashFront (bytes : List Byte) (tail : List Instr) : List Instr := .reset :: (feedCmds bytes ++ tail ++ [.finalize])

/-- The FEED_BITS of `hash`: none without a tail or with one of no bit, else one with 1 to 7 bits (R76). -/
theorem tailCmds_cases {tail : Option (Byte × Nat)} {ts : List Instr} (h : tailCmds tail = some ts) :
    ts = [] ∧ messageBits [] tail = [] ∨
      ∃ x n, tail = some (x, n) ∧ 0 < n ∧ n < 8 ∧ ts = [.feedBits x (BitVec.ofNat 3 n)] := by
  rcases tail with _ | ⟨x, n⟩
  · cases h
    exact .inl ⟨rfl, rfl⟩
  · simp only [tailCmds] at h
    split_ifs at h with h0 h8
    · cases h
      exact .inl ⟨rfl, by simp [messageBits, h0]⟩
    · cases h
      exact .inr ⟨x, n, rfl, by omega, h8, rfl⟩

/-- `hash` is its front, its `digest` and its last RESET (R76). -/
theorem hashCmds_eq (bytes : List Byte) (tail : Option (Byte × Nat)) :
    hashCmds bytes tail = (tailCmds tail).map fun ts => hashFront bytes ts ++ (digestCmds ++ [.reset]) := by
  simp [hashCmds, hashFront]

theorem tailCmds_of_lt {tail : Option (Byte × Nat)} (h : ∀ x n, tail = some (x, n) → n < 8) :
    ∃ ts, tailCmds tail = some ts := by
  rcases tail with _ | ⟨x, n⟩
  · exact ⟨[], rfl⟩
  · have hn := h x n rfl
    by_cases h0 : n = 0 <;> simp [tailCmds, h0, hn]

theorem hashFront_no_readDigest (bytes : List Byte) {tail : Option (Byte × Nat)} {ts : List Instr}
    (h : tailCmds tail = some ts) (k : BitVec 3) : .readDigest k ∉ hashFront bytes ts := by
  obtain ⟨rfl, -⟩ | ⟨x, n, -, -, -, rfl⟩ := tailCmds_cases h <;> simp [hashFront, feedCmds]

/-! ## Messages that do not fit BITCNT (R80) -/

theorem performWord_feedByte_overflow {b : Byte} {s : State} (he : s.err = false) (hr : s.phase = .ready)
    (hl : ¬ s.lengthFits 8) : performWord (encode (.feedByte b)) s = .next (s.faulted .lengthOverflow) :=
  (performWord_encode rfl s).trans <| (unlessLatched_of_clear _ _ he).trans <|
    (requireElse_of _ _ _ _ hr).trans (requireElse_of_not _ _ _ _ hl)

/-- The first byte that does not fit latches LENGTH_OVERFLOW, and the bytes after it keep it (R80, R126). -/
theorem feedCmds_overflow {bytes : List Byte} {s : State} (he : s.err = false) (hr : s.phase = .ready)
    (hl : ¬ s.lengthFits (8 * bytes.length)) :
    ∃ t, performWords ((feedCmds bytes).map encode) s = .next t ∧ t.Latched .lengthOverflow := by
  induction bytes generalizing s with
  | nil => exact absurd (by have := s.bitcnt.isLt; simp [State.lengthFits]; omega) hl
  | cons b bytes ih =>
    by_cases h8 : s.lengthFits 8
    · have hb := (Completes.feedByte (b := b) he hr h8).performWord
      have hsum : ((s.fedByte b).responded 0#32).bitcnt.toNat = s.bitcnt.toNat + 8 := by
        simpa using toNat_bitcnt_add h8
      obtain ⟨t, ht, hlatched⟩ := ih (s := (s.fedByte b).responded 0#32) (by simpa using he) (by simpa using hr)
        (by simp only [State.lengthFits, hsum, List.length_cons] at hl ⊢; omega)
      exact ⟨t, (performWords_cons _ hb).trans ht, hlatched⟩
    · have hb := performWord_feedByte_overflow (b := b) he hr h8
      have hfault : (s.faulted .lengthOverflow).Latched .lengthOverflow := ⟨rfl, reported_of_clear _ s he⟩
      obtain ⟨t, ht, hlatched⟩ := hfault.performWords (is := feedCmds bytes) (by simp [feedCmds, Instr.wellFormed])
      exact ⟨t, (performWords_cons _ hb).trans ht, hlatched⟩

theorem flatMap_byteBits_length (bytes : List Byte) : (bytes.flatMap byteBits).length = 8 * bytes.length := by
  simp [List.length_flatMap, Nat.mul_comm]

/-- The bytes' bits, then the tail's (R87). -/
theorem messageBits_eq (bytes : List Byte) (tail : Option (Byte × Nat)) :
    messageBits bytes tail = bytes.flatMap byteBits ++ messageBits [] tail := by
  simp [messageBits]

/-- A tail is at most 7 bits, so a message whose bytes fit BITCNT fits with its tail. -/
theorem overflow_of_messageBits {bytes : List Byte} {tail : Option (Byte × Nat)} {ts : List Instr}
    (h : tailCmds tail = some ts) (hlen : 2 ^ 64 - 1 < (messageBits bytes tail).length) :
    2 ^ 64 - 1 < 8 * bytes.length := by
  rw [messageBits_eq, List.length_append, flatMap_byteBits_length] at hlen
  obtain ⟨-, hnil⟩ | ⟨x, n, rfl, -, hn, -⟩ := tailCmds_cases h
  · simpa [hnil] using hlen
  · have htail : (messageBits [] (some (x, n))).length ≤ 7 := by simp [messageBits]; omega
    omega

theorem hashFront_overflow {bytes : List Byte} {tail : Option (Byte × Nat)} {ts : List Instr} (s : State)
    (h : tailCmds tail = some ts) (hlen : 2 ^ 64 - 1 < (messageBits bytes tail).length) :
    ∃ t, performWords ((hashFront bytes ts).map encode) s = .next t ∧ t.Latched .lengthOverflow := by
  have hreset := (Completes.reset (s := s)).performWord
  have hbytes := overflow_of_messageBits h hlen
  obtain ⟨u, hu, hlatched⟩ := feedCmds_overflow (bytes := bytes) (s := s.toReset.responded 0#32) rfl rfl
    (by simp [State.lengthFits]; omega)
  obtain ⟨t, ht, hlatched⟩ := hlatched.performWords (is := ts ++ [.finalize]) (by
    obtain ⟨rfl, -⟩ | ⟨x, n, -, -, -, rfl⟩ := tailCmds_cases h <;> simp [Instr.wellFormed])
  refine ⟨t, ?_, hlatched⟩
  rw [hashFront, List.map_cons, performWords_cons _ hreset, List.append_assoc, List.map_append,
    performWords_append _ hu, ht]

/-! ## The results -/

/-- The result of `hash` is that of `digest` in the state its FINALIZE leaves (R76). -/
theorem runHash_eq {bytes : List Byte} {tail : Option (Byte × Nat)} {ts : List Instr} {s t : State}
    (hts : tailCmds tail = some ts) (h : performWords ((hashFront bytes ts).map encode) s = .next t) :
    runHash bytes tail s = some (if t.err then .error t.errCause
      else if t.phase = .finalized then .ok (digestBytes t.h) else .error .digestPhase) := by
  rw [runHash, hashCmds_eq, hts, Option.map_some, Option.map_some,
    pseudoResult_append _ (hashFront_no_readDigest bytes hts) h, pseudoResult_digestCmds t (by simp)]

theorem runDigest_eq (s : State) : runDigest s =
    if s.err then .error s.errCause
    else if s.phase = .finalized then .ok (digestBytes s.h) else .error .digestPhase := by
  simpa [runDigest] using pseudoResult_digestCmds (is := []) s (by simp)

/-- A sequence that ends with RESET leaves a new message, with nothing latched (R78). -/
theorem performWords_reset_last (is : List Instr) (s : State) :
    ∃ u : State, performWords ((is ++ [Instr.reset]).map encode) s = .next (u.toReset.responded 0#32) := by
  obtain ⟨u, hu⟩ := performWords_total (is.map encode) s
  refine ⟨u, ?_⟩
  rw [List.map_append, performWords_append _ hu, List.map_singleton, performWords_cons _ Completes.reset.performWord,
    performWords_nil]

/-- Settles O59: each result is that of the first READ_DIGEST, in the state the commands before it leave. -/
theorem pseudoResultsFollowTheirRules : Obligations.PseudoResultsFollowTheirRules := by
  refine ⟨runDigest_eq, fun bytes x n s hn => ?_, fun bytes tail s htail hlen => ?_, fun bytes tail is s his => ?_⟩
  · rw [runHash, (hashCmds_eq_none_iff bytes _).mpr ⟨x, n, rfl, hn⟩, Option.map_none]
  · obtain ⟨ts, hts⟩ := tailCmds_of_lt htail
    obtain ⟨t, ht, he, hc⟩ := hashFront_overflow s hts hlen
    rw [runHash_eq hts ht, if_pos he, hc]
  · rw [hashCmds_eq] at his
    obtain ⟨ts, -, rfl⟩ := Option.map_eq_some_iff.mp his
    obtain ⟨u, hu⟩ := performWords_reset_last (hashFront bytes ts ++ digestCmds) s
    rw [List.append_assoc] at hu
    exact ⟨_, hu, runDigest_eq _⟩

end Sys2Proof.Machine
end

section
/-! PROOFS. FINALIZE's blocks are the end of the padded message, bit by bit, so H is the message's SHA-1 digest
(41_padding.md R92 to R103). -/

namespace Sys2Proof.Machine

/-! ## Blocks and their bits (R9) -/

/-- A byte collected from n bits, the last one lowest. -/
theorem foldl_bits_getLsbD (f : Nat → Bool) (n : Nat) {i : Nat} (hi : i < 8) :
    ((List.range n).foldl (fun (acc : Byte) j => (acc <<< 1) ||| (if f j then 1#8 else 0#8)) 0#8).getLsbD i =
      (decide (i < n) && f (n - 1 - i)) := by
  induction n generalizing i with
  | zero => simp
  | succ n ih =>
    rw [List.range_succ, List.foldl_append, List.foldl_cons, List.foldl_nil, BitVec.getLsbD_or,
      BitVec.getLsbD_shiftLeft]
    cases i with
    | zero => cases hf : f n <;> simp [hf]
    | succ i =>
      have hsub : n + 1 - 1 - (i + 1) = n - 1 - i := by omega
      have hbit : (if f n then 1#8 else 0#8).getLsbD (i + 1) = false := by cases f n <;> simp
      rw [hbit, hsub, Nat.add_sub_cancel, ih (by omega)]
      simp [hi]

theorem bitsByte_getMsbD (bits : List Bool) {j : Nat} (hj : j < 8) : (bitsByte bits).getMsbD j = bits.getD j false := by
  have h := foldl_bits_getLsbD (bits.getD · false) 8 (by omega : 7 - j < 8)
  have hsub : 8 - 1 - (7 - j) = j := by omega
  rw [hsub] at h
  simpa [BitVec.getMsbD, hj, bitsByte, (by omega : 7 - j < 8)] using h

/-- A byte is read back from its bits. -/
theorem bitsByte_byteBits (b : Byte) (rest : List Bool) : bitsByte (byteBits b ++ rest) = b := by
  refine BitVec.eq_of_getMsbD_eq fun j hj => ?_
  rw [bitsByte_getMsbD _ hj, List.getD_append _ _ _ _ (by simpa using hj)]
  simp [byteBits, hj]

theorem flatMap_byteBits_drop (bytes : List Byte) (i : Nat) :
    (bytes.flatMap byteBits).drop (8 * i) = (bytes.drop i).flatMap byteBits := by
  induction bytes generalizing i with
  | nil => simp
  | cons b bytes ih =>
    cases i with
    | zero => rfl
    | succ i =>
      have hdrop : 8 * (i + 1) = (byteBits b).length + 8 * i := by simp; omega
      rw [List.flatMap_cons, hdrop, List.drop_length_add_append, ih, List.drop_succ_cons]

@[simp] theorem blockBits_length (block : Buffer) : (blockBits block).length = 512 := by
  rw [blockBits, flatMap_byteBits_length, Vector.length_toList]

/-- A block is read back from its bits. -/
theorem bitsBlock_blockBits (block : Buffer) (rest : List Bool) : bitsBlock (blockBits block ++ rest) = block := by
  refine Vector.ext fun i hi => ?_
  have hdrop := List.drop_eq_getElem_cons (l := block.toList) (i := i) (by simpa using hi)
  simp only [bitsBlock, Vector.getElem_ofFn]
  rw [List.drop_append_of_le_length (by simp; omega), blockBits, flatMap_byteBits_drop, hdrop, List.flatMap_cons,
    List.append_assoc, bitsByte_byteBits, Vector.getElem_toList]

/-- Blocks are read back from their bits. -/
theorem bitsBlocks_flatMap_blockBits (blocks : List Buffer) :
    bitsBlocks blocks.length (blocks.flatMap blockBits) = blocks := by
  induction blocks with
  | nil => rfl
  | cons block blocks ih =>
    have hdrop : (blockBits block ++ blocks.flatMap blockBits).drop 512 = blocks.flatMap blockBits :=
      List.drop_left' (blockBits_length block)
    rw [List.flatMap_cons, List.length_cons, bitsBlocks, bitsBlock_blockBits, hdrop, ih]

/-! ## The padding's bytes and their bits (R43, R93 to R95) -/

/-- The marked byte: the tail's bits, the 1 bit, zeros (R93, R95). -/
theorem byteBits_markByte (nx : Fin 8) (b : Byte) :
    byteBits (markByte nx b) = (byteBits b).take nx.val ++ true :: List.replicate (7 - nx.val) false := by
  refine List.ext_getElem (by simp; omega) fun j hj _ => ?_
  have hj : j < 8 := by simpa using hj
  have hbit := markByte_getMsbD nx b ⟨j, hj⟩
  have hmin : min nx.val 8 = nx.val := by omega
  simp only [Fin.lt_def, Fin.ext_iff] at hbit
  simp only [byteBits, List.getElem_map, List.getElem_range, List.getElem_append, List.getElem_cons, List.getElem_take,
    List.getElem_replicate, List.length_take, List.length_map, List.length_range, hmin, hbit]
  split
  next => rfl
  next hge =>
    have hsub : j - nx.val = 0 ↔ j = nx.val := by omega
    simp [hsub, Bool.if_false_right]

theorem flatMap_byteBits_zeros (n : Nat) :
    (List.replicate n 0#8).flatMap byteBits = List.replicate (8 * n) false := by
  have hzero : byteBits 0#8 = List.replicate 8 false := by decide
  rw [List.flatMap_replicate, hzero, List.flatten_replicate_replicate, Nat.mul_comm]

/-- The length field's bytes hold its bits in order (R43). -/
theorem flatMap_byteBits_be64 (n : DWord) : (be64 n).flatMap byteBits = lengthBits n := by
  have hbytes : be64 n = (List.range 8).map fun i => n.extractLsb' (8 * (7 - i)) 8 := rfl
  have hrange : List.range 64 = (List.range 8).flatMap fun i => List.range' (8 * i) 8 := by decide
  rw [hbytes, lengthBits, hrange, List.flatMap_map, List.map_flatMap]
  refine List.flatMap_congr fun i hi => ?_
  have hi : i < 8 := List.mem_range.mp hi
  refine List.ext_getElem (by simp) fun j hj _ => ?_
  have hj : j < 8 := by simpa using hj
  have hpos : 8 * (7 - i) + (7 - j) = 63 - (8 * i + j) := by omega
  have h64 : 8 * i + j < 64 := by omega
  have h8 : 7 - j < 8 := by omega
  simp [byteBits, BitVec.getMsbD, hj, hpos, h64, h8]

/-! ## FINALIZE's blocks -/

/-- The cells of the marked buffer in order: the message bytes, the byte with the 1 bit, zeros (R91, R94). -/
theorem padMarked_toList (s : State) : s.padMarked.buf.toList =
    s.buf.toList.take s.p.val ++ markByte s.nx s.buf[s.p] :: List.replicate (63 - s.p.val) 0#8 := by
  refine List.ext_getElem (by simp; omega) fun i hi _ => ?_
  have hi : i < 64 := by simpa using hi
  have hcell := zeroAfter_get s.p (s.buf.set s.p (markByte s.nx s.buf[s.p])) ⟨i, hi⟩
  rw [set_get] at hcell
  simp only [Fin.lt_def, Fin.ext_iff] at hcell
  have hmin : min s.p.val 64 = s.p.val := by omega
  simp only [State.padMarked_buf, Vector.getElem_toList, List.getElem_append, List.getElem_cons, List.getElem_take,
    List.getElem_replicate, List.length_take, Vector.length_toList, hmin]
  refine hcell.trans ?_
  obtain hlt | heq | hgt := lt_trichotomy i s.p.val
  · simp [hlt, hlt.ne, hlt.not_gt]
  · simp [heq]
  · have hsub : i - s.p.val ≠ 0 := by omega
    simp [hgt, hgt.not_gt, hsub]

/-- The length field takes the last eight cells (R91). -/
theorem memWrite_toList {bytes : List Byte} (h : bytes.length = 8) (buf : Buffer) :
    (memWrite 56 bytes buf).toList = buf.toList.take 56 ++ bytes := by
  refine List.ext_getElem (by simp [h]) fun i hi _ => ?_
  have hi : i < 64 := by simpa using hi
  have hcell := memWrite_get 56 bytes buf ⟨i, hi⟩
  by_cases h56 : 56 ≤ i
  · have hlt : i - 56 < bytes.length := by omega
    simpa [List.getElem_append, h56, hlt] using hcell
  · simpa [List.getElem_append, h56, not_le.mp h56] using hcell

/-- The last blocks of a message (R91, R98): the marked one with the length, or the marked one and one more. -/
def finalBlocks (s : State) : List Buffer :=
  if 447 < s.padPos then [s.padMarked.buf, memWrite 56 (be64 s.bitcnt) zeroBuf]
  else [memWrite 56 (be64 s.bitcnt) s.padMarked.buf]

/-- FINALIZE compresses its last blocks in order (R91). -/
theorem padded_h_eq_foldl (s : State) : s.padded.h = (finalBlocks s).foldl compress s.h := by
  rw [State.padded_h, finalBlocks, State.padSplit]
  split <;> simp

theorem pendingBits_length (s : State) : s.pendingBits.length = s.padPos := by
  rw [State.pendingBits, List.length_append, flatMap_byteBits_length]
  simp [State.padPos]

/-- The marked buffer: the pending bits, the 1 bit, zeros (R93, R94). -/
theorem padMarked_flatMap_byteBits (s : State) {n : Nat} (hp : s.p.val < n) (hn : n ≤ 64) :
    (s.padMarked.buf.toList.take n).flatMap byteBits =
      s.pendingBits ++ true :: List.replicate (8 * n - 1 - s.padPos) false := by
  have htake : s.padMarked.buf.toList.take n =
      s.buf.toList.take s.p.val ++ markByte s.nx s.buf[s.p] :: List.replicate (n - 1 - s.p.val) 0#8 := by
    have hsub : n - s.p.val = n - 1 - s.p.val + 1 := by omega
    have hmin : min (n - 1 - s.p.val) (63 - s.p.val) = n - 1 - s.p.val := by omega
    rw [padMarked_toList, List.take_append, List.take_of_length_le (by simp; omega)]
    simp [hsub, hmin]
  have hzeros : 8 * n - 1 - s.padPos = 7 - s.nx.val + 8 * (n - 1 - s.p.val) := by
    unfold State.padPos
    omega
  rw [htake, List.flatMap_append, List.flatMap_cons, byteBits_markByte, flatMap_byteBits_zeros, hzeros,
    List.replicate_add, State.pendingBits]
  simp

/-- The block that holds the length field (R99, R100). -/
theorem blockBits_memWrite_length (n : DWord) (buf : Buffer) :
    blockBits (memWrite 56 (be64 n) buf) = (buf.toList.take 56).flatMap byteBits ++ lengthBits n := by
  rw [blockBits, memWrite_toList rfl, List.flatMap_append, flatMap_byteBits_be64]

/-- FINALIZE's blocks complete the message to the padded message (R92 to R100). -/
theorem finalBlocks_bits {s : State} (hpos : s.bitcnt.toNat % 512 = s.padPos) :
    (finalBlocks s).flatMap blockBits = s.pendingBits ++ true ::
      (List.replicate (padZeros s.bitcnt.toNat) false ++ lengthBits s.bitcnt) := by
  have hp : s.padPos = 8 * s.p.val + s.nx.val := rfl
  unfold finalBlocks
  split
  next h447 =>
    have hzeros : padZeros s.bitcnt.toNat = 8 * 64 - 1 - s.padPos + 8 * 56 := by unfold padZeros; omega
    have hfirst := padMarked_flatMap_byteBits s (n := 64) (by omega) le_rfl
    have hsecond : (zeroBuf.toList.take 56).flatMap byteBits = List.replicate (8 * 56) false := by
      rw [← flatMap_byteBits_zeros]
      rfl
    rw [List.take_of_length_le (by simp)] at hfirst
    rw [List.flatMap_cons, List.flatMap_singleton, blockBits_memWrite_length, hsecond, blockBits, hfirst, hzeros,
      List.replicate_add]
    simp only [List.append_assoc, List.cons_append]
  next h447 =>
    have hzeros : padZeros s.bitcnt.toNat = 8 * 56 - 1 - s.padPos := by unfold padZeros; omega
    rw [List.flatMap_singleton, blockBits_memWrite_length, padMarked_flatMap_byteBits s (by omega) (by omega), hzeros,
      List.append_assoc, List.cons_append]

/-! ## The digest (R101, R103) -/

section
variable {blocks : List Buffer} {m : List Bool} {s : State}

theorem AbsorbedAs.length_eq (h : AbsorbedAs blocks m s) : m.length = 512 * blocks.length + s.padPos := by
  obtain ⟨hbits, -, -⟩ := h
  rw [hbits, List.length_append, pendingBits_length, List.length_flatMap]
  simp [Nat.mul_comm]

/-- The blocks fed and FINALIZE's own are the padded message (R92 to R100). -/
theorem AbsorbedAs.paddedBits_eq (h : AbsorbedAs blocks m s) :
    (blocks ++ finalBlocks s).flatMap blockBits = paddedBits m := by
  have hlen := h.length_eq
  obtain ⟨hbits, -, hcnt⟩ := h
  have hpos : s.bitcnt.toNat % 512 = s.padPos := by unfold State.padPos at hlen ⊢; omega
  have hlength : BitVec.ofNat 64 m.length = s.bitcnt := by rw [← hcnt, BitVec.ofNat_toNat, BitVec.setWidth_eq]
  rw [List.flatMap_append, finalBlocks_bits hpos, paddedBits, hlength, hcnt]
  rw [hbits]
  simp

/-- Their count is floor((len + 64) / 512) + 1 (R101). -/
theorem AbsorbedAs.blockCount (h : AbsorbedAs blocks m s) :
    (blocks ++ finalBlocks s).length = (m.length + 64) / 512 + 1 := by
  have hp : s.padPos = 8 * s.p.val + s.nx.val := rfl
  rw [h.length_eq, List.length_append, finalBlocks]
  split <;> simp <;> omega

/-- FINALIZE leaves the digest of the message absorbed (R103). -/
theorem AbsorbedAs.padded_h (h : AbsorbedAs blocks m s) : s.padded.h = sha1 m := by
  have ⟨_, hh, _⟩ := h
  rw [sha1, ← h.paddedBits_eq, ← h.blockCount, bitsBlocks_flatMap_blockBits, List.foldl_append, ← hh,
    padded_h_eq_foldl]

end

end Sys2Proof.Machine
end

section
/-! PROOFS. The message a core absorbs, command by command, and `hash` of any message (30_encoding.md R76;
40_accumulator.md R81, R85, R87). -/

namespace Sys2Proof.Machine

/-! ## Absorbing -/

/-- The first P + 1 cells after a byte is written at P. -/
theorem set_toList_take_succ (buf : Buffer) (p : Fin 64) (b : Byte) :
    (buf.set p b).toList.take (p.val + 1) = buf.toList.take p.val ++ [b] := by
  have hp : p.val < buf.toList.length := by simp
  rw [Vector.toList_set, List.take_add_one, List.take_set_of_le le_rfl, List.getElem?_set_self hp]
  rfl

/-- In Ready no tail is pending (R27). -/
theorem pendingBits_of_nx {s : State} (hn : s.nx = 0) :
    s.pendingBits = (s.buf.toList.take s.p.val).flatMap byteBits := by
  simp [State.pendingBits, hn]

/-- A byte before the 64th joins the pending bits (R81). -/
theorem pendingBits_takeByte_withP {s : State} (hn : s.nx = 0) (hp : s.p ≠ 63) (b : Byte) :
    ((s.takeByte b).withP (s.p + 1)).pendingBits = s.pendingBits ++ byteBits b := by
  have hval : (s.p + 1).val = s.p.val + 1 := by
    have hne : s.p.val ≠ 63 := fun h => hp (Fin.ext h)
    rw [Fin.val_add]
    exact Nat.mod_eq_of_lt (by have := s.p.isLt; simp; omega)
  rw [pendingBits_of_nx hn, pendingBits_of_nx (by simpa using hn), State.withP_p, hval, State.withP_buf,
    State.takeByte_buf, set_toList_take_succ, List.flatMap_append, List.flatMap_singleton]

/-- The 64th byte completes a block (R82). -/
theorem blockBits_takeByte {s : State} (hn : s.nx = 0) (hp : s.p = 63) (b : Byte) :
    blockBits (s.takeByte b).buf = s.pendingBits ++ byteBits b := by
  have htake := set_toList_take_succ s.buf s.p b
  rw [List.take_of_length_le (by simp [hp])] at htake
  rw [pendingBits_of_nx hn, blockBits, State.takeByte_buf, htake, List.flatMap_append, List.flatMap_singleton]

/-- A tail joins the pending bits (R85). -/
theorem pendingBits_fedBits {s : State} (hn : s.nx = 0) (b : Byte) (n : Fin 8) :
    (s.fedBits b n).pendingBits = s.pendingBits ++ (byteBits b).take n.val := by
  have hcells := congrArg (List.take s.p.val) (set_toList_take_succ s.buf s.p b)
  have hcells : (s.buf.set s.p b).toList.take s.p.val = s.buf.toList.take s.p.val := by
    simpa [List.take_take] using hcells
  rw [pendingBits_of_nx hn, State.pendingBits]
  simp [hcells]

/-- FEED_BYTE appends the byte's bits to the message (R87). -/
theorem Absorbed.fedByte {m : List Bool} {s : State} (h : Absorbed m s) (hn : s.nx = 0) (hl : s.lengthFits 8)
    (b : Byte) : Absorbed (m ++ byteBits b) (s.fedByte b) := by
  obtain ⟨blocks, hbits, hh, hcnt⟩ := h
  have hcnt' : (s.fedByte b).bitcnt.toNat = (m ++ byteBits b).length := by
    rw [State.fedByte_bitcnt, toNat_bitcnt_add hl, hcnt]
    simp
  by_cases hp : s.p = 63
  · refine ⟨blocks ++ [(s.takeByte b).buf], ?_, ?_, hcnt'⟩
    · rw [State.fedByte_last b s hp, pendingBits_of_empty (by simp) (by simpa using hn), List.flatMap_append,
        List.flatMap_singleton, blockBits_takeByte hn hp, hbits]
      simp
    · simp [State.fedByte_last b s hp, hh]
  · refine ⟨blocks, ?_, ?_, hcnt'⟩
    · rw [State.fedByte_open b s hp, pendingBits_takeByte_withP hn hp, hbits, List.append_assoc]
    · simp [State.fedByte_open b s hp, hh]

/-- FEED_BITS appends the tail's bits to the message (R87). -/
theorem Absorbed.fedBits {m : List Bool} {s : State} (h : Absorbed m s) (hn : s.nx = 0) {n : Fin 8}
    (hl : s.lengthFits n.val) (b : Byte) : Absorbed (m ++ (byteBits b).take n.val) (s.fedBits b n) := by
  obtain ⟨blocks, hbits, hh, hcnt⟩ := h
  refine ⟨blocks, ?_, hh, ?_⟩
  · rw [pendingBits_fedBits hn, hbits, List.append_assoc]
  · rw [State.fedBits_bitcnt, toNat_bitcnt_add hl, hcnt]
    simp

/-! ## Sequences that answer no data -/

/-- The commands run from s to t, and each one answers OK with no data (R66). -/
def AnswersOk (is : List Instr) (s t : State) : Prop :=
  performWords (is.map encode) s = .next t ∧
    responsesTo (is.map encode) s = List.replicate is.length (some okResponse)

theorem AnswersOk.nil (s : State) : AnswersOk [] s s := ⟨rfl, rfl⟩

theorem Completes.answersOk {i : Instr} {s t : State} (h : Completes i s t) (hi : ∀ k, i ≠ .readDigest k) :
    AnswersOk [i] s t := by
  refine ⟨performWords_cons [] h.performWord, ?_⟩
  rw [List.map_singleton, responsesTo_cons [] h.performWord, h.rsp_of_ne_readDigest hi]
  rfl

theorem AnswersOk.append {is js : List Instr} {s t u : State} (hi : AnswersOk is s t) (hj : AnswersOk js t u) :
    AnswersOk (is ++ js) s u := by
  obtain ⟨hi, hri⟩ := hi
  obtain ⟨hj, hrj⟩ := hj
  refine ⟨?_, ?_⟩
  · rw [List.map_append, performWords_append _ hi, hj]
  · rw [List.map_append, responsesTo_append _ hi, hri, hrj, List.length_append, List.replicate_add]

/-! ## From a new message to its digest -/

/-- A core in Ready that has absorbed the message m, in a run without a fault (R25, R87, R129). -/
structure Feeds (m : List Bool) (s : State) : Prop where
  clear : s.err = false
  ready : s.phase = .ready
  nx : s.nx = 0
  absorbed : Absorbed m s
  noFault : s.noFault

/-- The same before FINALIZE, in Ready or with a tail (R86). -/
structure Holds (m : List Bool) (s : State) : Prop where
  clear : s.err = false
  opened : s.phase ≠ .finalized
  absorbed : Absorbed m s
  noFault : s.noFault

/-- A core in Finalized with the digest of m, in a run without a fault (R103). -/
structure HoldsDigest (m : List Bool) (s : State) : Prop where
  clear : s.err = false
  closed : s.phase = .finalized
  digest : s.h = sha1 m
  noFault : s.noFault

theorem Feeds.holds {m : List Bool} {s : State} (h : Feeds m s) : Holds m s :=
  ⟨h.clear, by simp [h.ready], h.absorbed, h.noFault⟩

theorem Absorbed.lengthFits {m : List Bool} {s : State} (h : Absorbed m s) {n : Nat}
    (hn : m.length + n ≤ 2 ^ 64 - 1) : s.lengthFits n := by
  obtain ⟨-, -, -, hcnt⟩ := h
  rwa [State.lengthFits, hcnt]

/-- RESET starts the empty message (R78). -/
theorem reset_feeds {s : State} (h : s.noFault) : Feeds [] (s.toReset.responded 0#32) :=
  ⟨rfl, rfl, rfl, ⟨[], absorbedAs_nil rfl rfl rfl rfl⟩, h⟩

theorem Feeds.fedByte {m : List Bool} {s : State} (h : Feeds m s) (hl : s.lengthFits 8) (b : Byte) :
    Feeds (m ++ byteBits b) ((s.fedByte b).responded 0#32) := by
  refine ⟨?_, ?_, ?_, h.absorbed.fedByte h.nx hl b, ?_⟩
  · simpa using h.clear
  · simpa using h.ready
  · simpa using h.nx
  · simpa [State.noFault] using h.noFault

/-- `feed` appends its bytes' bits, each command answering OK (R74, R83). -/
theorem Feeds.feedCmds {m : List Bool} {s : State} {bytes : List Byte} (h : Feeds m s)
    (hl : m.length + 8 * bytes.length ≤ 2 ^ 64 - 1) :
    ∃ t, AnswersOk (feedCmds bytes) s t ∧ Feeds (m ++ bytes.flatMap byteBits) t := by
  induction bytes generalizing m s with
  | nil => exact ⟨s, .nil s, by simpa using h⟩
  | cons b bytes ih =>
    have h8 : s.lengthFits 8 := h.absorbed.lengthFits (by simp at hl; omega)
    have hb := (Completes.feedByte (b := b) h.clear h.ready h8).answersOk nofun
    obtain ⟨t, ht, hf⟩ := ih (h.fedByte h8 b) (by simp at hl ⊢; omega)
    exact ⟨t, hb.append ht, by simpa using hf⟩

/-- The FEED_BITS of `hash`, where there is one, appends the tail (R76, R85). -/
theorem Feeds.tailCmds {m : List Bool} {s : State} {tail : Option (Byte × Nat)} {ts : List Instr} (h : Feeds m s)
    (hts : tailCmds tail = some ts) (hl : (m ++ messageBits [] tail).length ≤ 2 ^ 64 - 1) :
    ∃ t, AnswersOk ts s t ∧ Holds (m ++ messageBits [] tail) t := by
  obtain ⟨rfl, hnil⟩ | ⟨x, n, rfl, hpos, hn, rfl⟩ := tailCmds_cases hts
  · exact ⟨s, .nil s, by simpa [hnil] using h.holds⟩
  · have hval : (BitVec.ofNat 3 n).toNat = n := Nat.mod_eq_of_lt hn
    have htail : messageBits [] (some (x, n)) = (byteBits x).take (BitVec.ofNat 3 n).toFin.val := by
      rw [BitVec.val_toFin, hval]
      rfl
    have hne : BitVec.ofNat 3 n ≠ 0#3 := fun h0 => by simp [h0] at hval; omega
    have hfits : s.lengthFits (BitVec.ofNat 3 n).toNat := by
      have hlen : ((byteBits x).take n).length = n := by simp [hn.le]
      refine h.absorbed.lengthFits ?_
      rwa [htail, BitVec.val_toFin, hval, List.length_append, hlen, ← hval] at hl
    have hx := (Completes.feedBits (b := x) h.clear h.ready hne hfits).answersOk nofun
    refine ⟨_, hx, h.clear, nofun, ?_, h.noFault⟩
    rw [htail]
    exact h.absorbed.fedBits h.nx hfits x

/-- FINALIZE completes, and H is the digest of the message held (R103). -/
theorem Holds.finalize {m : List Bool} {s : State} (h : Holds m s) :
    ∃ t, AnswersOk [.finalize] s t ∧ HoldsDigest m t := by
  obtain ⟨blocks, habs⟩ := h.absorbed
  refine ⟨_, (Completes.finalize h.clear h.opened).answersOk nofun, ?_, ?_, ?_, ?_⟩
  · simpa using h.clear
  · simp
  · exact habs.padded_h
  · simpa [State.noFault] using h.noFault

/-- `hash` up to its FINALIZE: every command answers OK, and H is the message's digest (R76, R103). -/
theorem hashFront_answersOk {bytes : List Byte} {tail : Option (Byte × Nat)} {ts : List Instr} {s : State}
    (hs : s.noFault) (hts : tailCmds tail = some ts) (hl : (messageBits bytes tail).length ≤ 2 ^ 64 - 1) :
    ∃ t, AnswersOk (hashFront bytes ts) s t ∧ HoldsDigest (messageBits bytes tail) t := by
  rw [messageBits_eq] at hl ⊢
  have hbytes : 8 * bytes.length ≤ 2 ^ 64 - 1 := by
    rw [List.length_append, flatMap_byteBits_length] at hl
    omega
  have hreset := (Completes.reset (s := s)).answersOk nofun
  obtain ⟨u, hfeed, hu⟩ := (reset_feeds hs).feedCmds (bytes := bytes) (by simpa using hbytes)
  obtain ⟨v, htail, hv⟩ := hu.tailCmds hts hl
  obtain ⟨t, hfinal, ht⟩ := hv.finalize
  exact ⟨t, hreset.append ((hfeed.append htail).append hfinal), ht⟩

/-- Settles O31: the front leaves the digest in H, the five READ_DIGESTs answer its words, and the last RESET leaves
Ready. -/
theorem hashReturnsSha1 : Obligations.HashReturnsSha1 := by
  intro bytes tail is s hs his hl d ok
  rw [hashCmds_eq] at his
  obtain ⟨ts, hts, rfl⟩ := Option.map_eq_some_iff.mp his
  obtain ⟨t, ⟨hfront, hrfront⟩, ht⟩ := hashFront_answersOk hs hts hl
  obtain ⟨u, hread, hrread, hlog⟩ := readCmds_answer (List.finRange 5) ht.clear ht.closed
  rw [← digestCmds_eq] at hread hrread
  have hreset := (Completes.reset (s := u)).performWord
  refine ⟨?_, ?_, u.toReset.responded 0#32, ?_, rfl, ?_⟩
  · have hlen : (hashFront bytes ts ++ (digestCmds ++ [Instr.reset])).length - 6 = (hashFront bytes ts).length := by
      simp [digestCmds]
    rw [hlen, List.map_append, responsesTo_append _ hfront, hrfront, List.map_append, responsesTo_append _ hread,
      hrread, List.map_singleton, responsesTo_cons _ hreset, ht.digest]
    rfl
  · rw [runHash_eq hts hfront, ht.digest]
    simp [ht.clear, ht.closed, d]
  · rw [List.map_append, performWords_append _ hfront, List.map_append, performWords_append _ hread,
      List.map_singleton, performWords_cons _ hreset, performWords_nil]
  · exact hlog.trans ht.noFault

end Sys2Proof.Machine
end

section
/-! PROOFS. Soundness from one command to the next: the message absorbed, or in Finalized the digest of one
(40_accumulator.md R87; 41_padding.md R103). -/

namespace Sys2Proof.Machine

/-- What Sound says of a run without a recorded fault: before Finalized the core has absorbed a message, in Finalized H
is the digest of one of BITCNT bits (R37, R87, R103). -/
structure State.MessageSound (s : State) : Prop where
  absorbed : s.phase ≠ .finalized → ∃ m, Absorbed m s
  digest : s.phase = .finalized → ∃ m, s.h = sha1 m ∧ s.bitcnt.toNat = m.length

theorem sound_iff {s : State} : s.Sound ↔ s.Coherent ∧ (s.noFault → s.MessageSound) := by
  constructor
  · rintro ⟨hc, hm⟩
    exact ⟨hc, fun hlog => ⟨(hm hlog).1, (hm hlog).2⟩⟩
  · rintro ⟨hc, hm⟩
    exact ⟨hc, fun hlog => ⟨(hm hlog).absorbed, (hm hlog).digest⟩⟩

theorem State.MessageSound.of_absorbed {m : List Bool} {s : State} (hf : s.phase ≠ .finalized) (h : Absorbed m s) :
    s.MessageSound :=
  ⟨fun _ => ⟨m, h⟩, fun hfin => absurd hfin hf⟩

/-- A new message is the empty one (R36). -/
theorem State.MessageSound.of_new {s : State} (hphase : s.phase = .ready) (hh : s.h = iv) (hp : s.p = 0)
    (hnx : s.nx = 0) (hbitcnt : s.bitcnt = 0#64) : s.MessageSound :=
  .of_absorbed (by simp [hphase]) ⟨[], absorbedAs_nil hh hp hnx hbitcnt⟩

/-- FEED_BYTE and FEED_BITS append to the message absorbed, and FINALIZE leaves its digest (R87, R103). -/
theorem Completes.messageSound {i : Instr} {s t : State} (h : Completes i s t) (hn : s.phase = .ready → s.nx = 0)
    (hs : s.MessageSound) : t.MessageSound := by
  cases h with
  | reset => exact .of_new rfl rfl rfl rfl rfl
  | @feedByte b _ _ hr hl =>
    obtain ⟨m, hm⟩ := hs.absorbed (by simp [hr])
    exact .of_absorbed (by simp [hr]) (hm.fedByte (hn hr) hl b)
  | @feedBits b n _ _ hr _ hl =>
    obtain ⟨m, hm⟩ := hs.absorbed (by simp [hr])
    exact .of_absorbed (by simp) (hm.fedBits (hn hr) hl b)
  | finalize _ hopened =>
    obtain ⟨m, blocks, hm⟩ := hs.absorbed hopened
    have ⟨_, _, hcnt⟩ := hm
    exact ⟨fun hf => absurd (by simp) hf, fun _ => ⟨m, hm.padded_h, by simpa using hcnt⟩⟩
  | readDigest => exact ⟨hs.absorbed, hs.digest⟩

/-- A fault is recorded, so nothing is claimed of the message after it (R39, R129). -/
theorem Faults.not_noFault {s t : State} (h : Faults s t) : ¬ t.noFault := by
  obtain ⟨c, -, rfl⟩ := h
  simp [State.noFault]

theorem State.Sound.performWord {w : Word} {s t : State} (hs : s.Sound) (h : performWord w s = .next t) : t.Sound := by
  obtain ⟨hc, hm⟩ := sound_iff.mp hs
  refine sound_iff.mpr ⟨hc.performWord h, fun hlog => ?_⟩
  obtain ⟨i, -, hi⟩ | hf := performWord_completes_or_faults h
  · obtain ⟨hcounts, -⟩ := coherent_iff.mp hc
    exact hi.messageSound hcounts.ready_nx (hm (hi.faultLog.symm.trans hlog))
  · exact absurd hlog hf.not_noFault

/-- Settles O53: a command that completes keeps the message or finishes it, a fault is recorded, and a reset starts the
empty message. -/
theorem soundnessIsKept : Obligations.SoundnessIsKept := by
  intro s t hs h
  have hcoherent := coherenceIsKept s t (sound_iff.mp hs).1 h
  obtain ⟨-, rfl⟩ | ⟨e, rest, -, ⟨w, -, hw⟩ | ⟨-, rfl⟩ | ⟨-, rfl⟩⟩ := step_cases h
  · exact hs
  · exact State.Sound.performWord (s := { s with pending := rest }) hs hw
  · exact sound_iff.mpr ⟨hcoherent, fun _ => .of_new rfl rfl rfl rfl rfl⟩
  · exact sound_iff.mpr ⟨hcoherent, fun _ => .of_new rfl rfl rfl rfl rfl⟩

end Sys2Proof.Machine
end

section
/-! PROOFS. The step and the accumulator's commands by their rules: encoding, checks in order, writes, response
(40_accumulator.md R77 to R88). -/

namespace Sys2Proof.Machine

/-! ## The step (R77) -/

/-- Settles O7. -/
theorem stepRunsTheDecodedCommand : Obligations.StepRunsTheDecodedCommand := by
  intro s w rest i hp hd
  rw [step_of_pending hp]
  simp only [takeEvent, performWord, hd]

/-- A fault whose cause is the one reported. -/
theorem faultTaken_of_reported {c : Cause} {s : State} (h : s.reported c = c) : FaultTaken c s (s.faulted c) := by
  simpa only [h] using faulted_faultTaken c s

/-- Settles O8: the cause an ILLEGAL word takes is the one reported, whether or not a fault is latched. -/
theorem stepOnIllegalWordTakesTheFault : Obligations.StepOnIllegalWordTakesTheFault := by
  intro s w rest r hp hd
  rw [step_of_pending hp]
  simp only [takeEvent, performWord, hd, illegalWord_eq]
  refine ⟨_, rfl, faultTaken_of_reported ?_⟩
  unfold State.reported
  split <;> rfl

/-! ## RESET (R78) -/

/-- Of the commands only RESET has opcode 1 (R60). -/
theorem eq_reset_of_opField_encode {i : Instr} (h : opField (encode i) = 0x1#4) : i = .reset := by
  cases i with
  | reset => rfl
  | feedByte | feedBits | finalize | readDigest => simp [encode] at h

/-- Settles O13: a word with opcode 1 that decodes is RESET's own. -/
theorem resetFollowsItsRule : Obligations.ResetFollowsItsRule := by
  refine ⟨rfl, fun w hop hne => ?_, fun s => rfl⟩
  cases hd : decode w with
  | error r => exact ⟨r, rfl⟩
  | ok i =>
    obtain ⟨-, rfl⟩ := encodeOfDecodeIsTheWord w i hd
    rw [eq_reset_of_opField_encode hop] at hne
    exact absurd rfl hne

/-! ## New faults (R122, R124) -/

/-- With ERR = 0 the cause raised is the cause taken (R124). -/
theorem exists_faultTaken {r : Result} {c : Cause} {s : State} (he : s.err = false) (h : r = .next (s.faulted c)) :
    ∃ t, r = .next t ∧ FaultTaken c s t :=
  ⟨_, h, faultTaken_of_reported (reported_of_clear c s he)⟩

section
variable {s : State} (he : s.err = false)
include he

theorem execFeedByte_of_not_ready (b : Byte) (hr : s.phase ≠ .ready) :
    exec (.feedByte b) s = .next (s.faulted .feedPhase) :=
  (unlessLatched_of_clear _ _ he).trans (requireElse_of_not _ _ _ _ hr)

theorem execFeedByte_of_overflow (b : Byte) (hr : s.phase = .ready) (hl : ¬ s.lengthFits 8) :
    exec (.feedByte b) s = .next (s.faulted .lengthOverflow) :=
  (performWord_encode rfl s).symm.trans (performWord_feedByte_overflow he hr hl)

theorem execFeedBits_of_not_ready (b : Byte) (n : BitVec 3) (hr : s.phase ≠ .ready) :
    exec (.feedBits b n) s = .next (s.faulted .bitsPhase) :=
  (unlessLatched_of_clear _ _ he).trans (requireElse_of_not _ _ _ _ hr)

theorem execFeedBits_of_zero (b : Byte) (hr : s.phase = .ready) :
    exec (.feedBits b 0#3) s = .next (s.faulted .bitsRange) :=
  (unlessLatched_of_clear _ _ he).trans <| (requireElse_of _ _ _ _ hr).trans <|
    requireElse_of_not _ _ _ _ fun h => (countOperand_range 0#3).mp h rfl

theorem execFeedBits_of_overflow (b : Byte) {n : BitVec 3} (hr : s.phase = .ready) (hn : n ≠ 0#3)
    (hl : ¬ s.lengthFits n.toNat) : exec (.feedBits b n) s = .next (s.faulted .lengthOverflow) :=
  (unlessLatched_of_clear _ _ he).trans <| (requireElse_of _ _ _ _ hr).trans <|
    (requireElse_of _ _ _ _ ((countOperand_range n).mpr hn)).trans (requireElse_of_not _ _ _ _ hl)

end

/-- The bits fit BITCNT, with the subtraction on the other side (R80). -/
theorem lengthFits_iff_le_sub {s : State} {n : Nat} (hn : n ≤ 2 ^ 64 - 1) :
    s.lengthFits n ↔ s.bitcnt.toNat ≤ 2 ^ 64 - 1 - n := by
  unfold State.lengthFits
  omega

/-! ## FEED_BYTE (R81) -/

/-- Settles O16: two checks, then the two cases of the write. -/
theorem feedByteFollowsItsRule : Obligations.FeedByteFollowsItsRule := by
  obtain ⟨-, hword, -⟩ := encodedWordsFollowTheFormulas
  refine ⟨hword, fun b s he => ?_⟩
  have hfits : s.lengthFits 8 ↔ s.bitcnt.toNat ≤ 2 ^ 64 - 1 - 8 := lengthFits_iff_le_sub (by omega)
  refine ⟨fun hr => ?_, fun hr hl => ?_, fun hr hl hp => ?_, fun hr hl hp => ?_⟩
  · exact exists_faultTaken he (execFeedByte_of_not_ready he b hr)
  · exact exists_faultTaken he (execFeedByte_of_overflow he b hr (mt hfits.mp (not_le.mpr hl)))
  · rw [exec_of_completes (.feedByte he hr (hfits.mpr hl)), State.fedByte_open b s hp]
    rfl
  · refine ⟨_, exec_of_completes (.feedByte he hr (hfits.mpr hl)), ?_⟩
    rw [State.fedByte_last b s hp]
    simp [hp, hr, he, okResponse]

/-! ## FEED_BITS (R85, R86) -/

/-- Settles O20: three checks, then the writes. -/
theorem feedBitsFollowsItsRule : Obligations.FeedBitsFollowsItsRule := by
  obtain ⟨-, -, hword, -⟩ := encodedWordsFollowTheFormulas
  refine ⟨hword, fun b n s he => ?_⟩
  have hfits : s.lengthFits n.toNat ↔ s.bitcnt.toNat ≤ 2 ^ 64 - 1 - n.toNat := lengthFits_iff_le_sub (by omega)
  refine ⟨fun hr => ?_, fun hr hn => ?_, fun hr hn hl => ?_, fun hr hn hl => ?_⟩
  · exact exists_faultTaken he (execFeedBits_of_not_ready he b n hr)
  · subst hn
    exact exists_faultTaken he (execFeedBits_of_zero he b hr)
  · exact exists_faultTaken he (execFeedBits_of_overflow he b hr hn (mt hfits.mp (not_le.mpr hl)))
  · rw [exec_of_completes (.feedBits he hr hn (hfits.mpr hl)), ← BitVec.ofNat_toNat]
    rfl

/-- Settles O22: no other command completes after a tail, and a fault does not answer OK. -/
theorem tailEndsTheMessageInput : Obligations.TailEndsTheMessageInput := by
  intro i s t r hphase h hr hok
  obtain hc | hf := exec_cases h
  · cases hc with
    | reset => exact .inr rfl
    | finalize => exact .inl rfl
    | feedByte _ hready | feedBits _ hready => simp [hphase] at hready
    | readDigest _ hclosed => simp [hphase] at hclosed
  · obtain ⟨-, c, hc⟩ := hf.phase_rsp
    cases hr.symm.trans hc
    cases hok

/-! ## READ_DIGEST (R88) -/

/-- The word of H that an index in 0..4 names (R88). -/
theorem digest_getElem_eq_ite (d : Digest) {k : BitVec 3} {j : Fin 5} (h : j.val = k.toNat) :
    d[j] = if k = 0#3 then d[0] else if k = 1#3 then d[1] else if k = 2#3 then d[2]
      else if k = 3#3 then d[3] else d[4] := by
  obtain rfl : k = BitVec.ofNat 3 j.val := by rw [h, BitVec.ofNat_toNat, BitVec.setWidth_eq]
  match j with
  | 0 | 1 | 2 | 3 | 4 => rfl

theorem execReadDigest_of_not_finalized {k : BitVec 3} {s : State} (he : s.err = false) (hf : s.phase ≠ .finalized)
    (hk : k ≤ 4#3) : exec (.readDigest k) s = .next (s.faulted .digestPhase) :=
  (performWord_encode (i := .readDigest k) (decide_eq_true hk) s).symm.trans
    (performWord_readDigest_of_not_finalized he hf hk)

/-- Settles O23: the decoder refuses the indexes that name no word, and the others answer theirs. -/
theorem readDigestFollowsItsRule : Obligations.ReadDigestFollowsItsRule := by
  obtain ⟨-, -, -, -, hword⟩ := encodedWordsFollowTheFormulas
  refine ⟨hword, fun k hk => ⟨.digestIndex, ?_⟩, fun k s hk he => ⟨fun hf => ?_, fun hf => ?_⟩⟩
  · rw [← hword]
    simpa [decode, encode] using hk
  · obtain ⟨j, hj, hval⟩ := indexOperand_of_le k hk
    rw [exec_of_completes (.readDigest he hf hj), ← digest_getElem_eq_ite s.h hval]
    rfl
  · exact exists_faultTaken he (execReadDigest_of_not_finalized he hf hk)

end Sys2Proof.Machine
end

section
/-! PROOFS. Feeding bytes: the consecutive 64-byte groups of the bytes pending and fed are compressed in order, and the
rest is pending, however the bytes come (40_accumulator.md R83, R84). -/

namespace Sys2Proof.Machine

/-! ## The 64-byte groups of a list of bytes -/

/-- The g-th group of 64 consecutive bytes (R83). -/
def byteGroup (bytes : List Byte) (g : Nat) : Buffer := Vector.ofFn fun k : Fin 64 => bytes.getD (64 * g + k.val) 0

/-- The digest state after the first n groups of the bytes, in order (R83). -/
def compressGroups (n : Nat) (bytes : List Byte) (h : Digest) : Digest :=
  (List.range n).foldl (fun h g => compress h (byteGroup bytes g)) h

/-- The bytes after the last whole group (R83). -/
def restOfGroups (bytes : List Byte) : List Byte := bytes.drop (64 * (bytes.length / 64))

@[simp] theorem restOfGroups_length (bytes : List Byte) : (restOfGroups bytes).length = bytes.length % 64 := by
  rw [restOfGroups, List.length_drop]
  omega

theorem compressGroups_succ (n : Nat) (bytes : List Byte) (h : Digest) :
    compressGroups (n + 1) bytes h = compress (compressGroups n bytes h) (byteGroup bytes n) := by
  simp [compressGroups, List.range_succ]

/-- A whole group is unchanged by what follows it. -/
theorem byteGroup_append {bytes : List Byte} {g : Nat} (hg : 64 * (g + 1) ≤ bytes.length) (more : List Byte) :
    byteGroup (bytes ++ more) g = byteGroup bytes g := by
  refine Vector.ext fun i hi => ?_
  have hlt : 64 * g + i < bytes.length := by omega
  simp [byteGroup, List.getElem?_append_left hlt]

theorem compressGroups_append {bytes : List Byte} {n : Nat} (hn : 64 * n ≤ bytes.length) (more : List Byte)
    (h : Digest) : compressGroups n (bytes ++ more) h = compressGroups n bytes h := by
  induction n with
  | zero => simp [compressGroups]
  | succ n ih => rw [compressGroups_succ, compressGroups_succ, ih (by omega), byteGroup_append hn]

/-- A buffer that holds the bytes from a group's start on is the group. -/
theorem byteGroup_eq_of_toList {buf : Buffer} {bytes : List Byte} {g : Nat} (h : bytes.drop (64 * g) = buf.toList) :
    byteGroup bytes g = buf := by
  refine Vector.ext fun i hi => ?_
  have hcell : bytes[64 * g + i]? = some buf[i] := by simp [← List.getElem?_drop, h, hi]
  simp [byteGroup, hcell]

/-- One byte more, after the last whole group so far. -/
theorem drop_groups_append (bytes : List Byte) (b : Byte) :
    (bytes ++ [b]).drop (64 * (bytes.length / 64)) = restOfGroups bytes ++ [b] :=
  List.drop_append_of_le_length (by omega)

/-! ## What H and BUF hold of the bytes fed -/

/-- The complete bytes pending (R19). -/
def State.pendingBytes (s : State) : List Byte := s.buf.toList.take s.p.val

@[simp] theorem pendingBytes_length (s : State) : s.pendingBytes.length = s.p.val := by
  simp [State.pendingBytes]

/-- Starting from the digest state h, the whole groups of the bytes are compressed into H in order, and the bytes after
them are pending (R83). -/
structure HoldsGroups (h : Digest) (bytes : List Byte) (t : State) : Prop where
  digest : t.h = compressGroups (bytes.length / 64) bytes h
  rest : t.pendingBytes = restOfGroups bytes

theorem HoldsGroups.p_eq {h : Digest} {bytes : List Byte} {t : State} (ht : HoldsGroups h bytes t) :
    t.p.val = bytes.length % 64 := by
  simpa using congrArg List.length ht.rest

/-- A core's pending bytes are fewer than a group. -/
theorem holdsGroups_pendingBytes (s : State) : HoldsGroups s.h s.pendingBytes s := by
  have hdiv : s.pendingBytes.length / 64 = 0 := by simp
  refine ⟨?_, ?_⟩
  · rw [hdiv]
    rfl
  · simp only [restOfGroups, hdiv, Nat.mul_zero, List.drop_zero]

section
variable {h : Digest} {bytes : List Byte} {t : State} (ht : HoldsGroups h bytes t) (b : Byte)
include ht

/-- The byte written at P follows the bytes pending. -/
theorem HoldsGroups.set_cells :
    (t.buf.set t.p b).toList.take (t.p.val + 1) = (bytes ++ [b]).drop (64 * (bytes.length / 64)) := by
  rw [set_toList_take_succ, drop_groups_append, ← ht.rest, State.pendingBytes]

/-- The 64th pending byte completes a group, which is compressed (R82). -/
theorem HoldsGroups.fedByte_last (hp : t.p = 63) : HoldsGroups h (bytes ++ [b]) (t.fedByte b) := by
  have hfull : bytes.length % 64 = 63 := by rw [← ht.p_eq, hp]; rfl
  have hlen : (bytes ++ [b]).length = bytes.length + 1 := by simp
  have hdiv : (bytes ++ [b]).length / 64 = bytes.length / 64 + 1 := by omega
  have hgroup : byteGroup (bytes ++ [b]) (bytes.length / 64) = t.buf.set t.p b := by
    refine byteGroup_eq_of_toList ?_
    rw [← ht.set_cells b, List.take_of_length_le (by simp [hp])]
  have hnone : restOfGroups (bytes ++ [b]) = [] := List.drop_eq_nil_of_le (by omega)
  rw [State.fedByte_last b t hp]
  refine ⟨?_, by simp [State.pendingBytes, hnone]⟩
  rw [hdiv, compressGroups_succ, compressGroups_append (by omega), hgroup, ← ht.digest]
  simp

/-- A byte before the 64th joins the pending ones (R81). -/
theorem HoldsGroups.fedByte_open (hp : t.p ≠ 63) : HoldsGroups h (bytes ++ [b]) (t.fedByte b) := by
  have hne : t.p.val ≠ 63 := fun h63 => hp (Fin.ext h63)
  have hpos := ht.p_eq
  have hdiv : (bytes ++ [b]).length / 64 = bytes.length / 64 := by simp; omega
  have hval : (t.fedByte b).p.val = t.p.val + 1 := by rw [State.fedByte_p]; omega
  have hbuf : (t.fedByte b).buf = t.buf.set t.p b := by rw [State.fedByte_open b t hp]; rfl
  refine ⟨?_, ?_⟩
  · rw [hdiv, compressGroups_append (by omega), ← ht.digest, State.fedByte_open b t hp]
    rfl
  · rw [State.pendingBytes, hval, hbuf, ht.set_cells b, ← hdiv, ← restOfGroups]

theorem HoldsGroups.fedByte : HoldsGroups h (bytes ++ [b]) (t.fedByte b) := by
  by_cases hp : t.p = 63
  · exact ht.fedByte_last b hp
  · exact ht.fedByte_open b hp

end

/-! ## Sequences of FEED_BYTE -/

/-- The state t is what s is once the bytes were fed to it, none of them faulting: they follow the bytes s had pending
(R83, R84). -/
structure FedFrom (s : State) (bytes : List Byte) (t : State) : Prop where
  clear : t.err = false
  ready : t.phase = .ready
  nx : t.nx = 0
  groups : HoldsGroups s.h (s.pendingBytes ++ bytes) t
  bitcnt : t.bitcnt.toNat = s.bitcnt.toNat + 8 * bytes.length
  faultLog : t.faultLog = s.faultLog

theorem FedFrom.refl {s : State} (he : s.err = false) (hr : s.phase = .ready) (hn : s.nx = 0) : FedFrom s [] s :=
  ⟨he, hr, hn, by simpa using holdsGroups_pendingBytes s, rfl, rfl⟩

theorem FedFrom.fedByte {s t : State} {bytes : List Byte} (h : FedFrom s bytes t) (hl : t.lengthFits 8) (b : Byte) :
    FedFrom s (bytes ++ [b]) ((t.fedByte b).responded 0#32) := by
  obtain ⟨he, hr, hn, hgroups, hcnt, hlog⟩ := h
  refine ⟨by simpa using he, by simpa using hr, by simpa using hn, ?_, ?_, by simpa using hlog⟩
  · rw [← List.append_assoc]
    exact ⟨(hgroups.fedByte b).digest, (hgroups.fedByte b).rest⟩
  · rw [State.responded_bitcnt, State.fedByte_bitcnt, toNat_bitcnt_add hl, hcnt, List.length_append]
    simp [Nat.mul_add, Nat.add_assoc]

/-- Feeding continues where it stands, as long as the bits fit BITCNT (R80, R84). -/
theorem FedFrom.feedCmds {s t : State} {fed bytes : List Byte} (h : FedFrom s fed t)
    (hl : t.lengthFits (8 * bytes.length)) :
    ∃ u, performWords ((feedCmds bytes).map encode) t = .next u ∧ FedFrom s (fed ++ bytes) u := by
  induction bytes generalizing fed t with
  | nil => exact ⟨t, rfl, by simpa using h⟩
  | cons b bytes ih =>
    have h8 : t.lengthFits 8 := by simp [State.lengthFits] at hl ⊢; omega
    have hb := (Completes.feedByte (b := b) h.clear h.ready h8).performWord
    have hl' : ((t.fedByte b).responded 0#32).lengthFits (8 * bytes.length) := by
      have hsum := toNat_bitcnt_add h8
      simp [State.lengthFits, hsum] at hl ⊢
      omega
    obtain ⟨u, hu, hfed⟩ := ih (h.fedByte h8 b) hl'
    exact ⟨u, (performWords_cons _ hb).trans hu, by simpa using hfed⟩

theorem flatMap_feedCmds (chunks : List (List Byte)) : chunks.flatMap feedCmds = feedCmds chunks.flatten := by
  rw [feedCmds, List.map_flatten, List.flatMap_def]
  rfl

/-- Settles O19: the commands of the chunks are those of their concatenation. -/
theorem chunkingInvariance : Obligations.ChunkingInvariance := by
  intro chunks s hs he hr hl bytes groups
  obtain ⟨hcounts, -⟩ := coherent_iff.mp hs
  obtain ⟨t, ht, hfed⟩ := (FedFrom.refl he hr (hcounts.ready_nx hr)).feedCmds hl
  rw [← flatMap_feedCmds] at ht
  refine ⟨t, ht, hfed.groups.digest, hfed.groups.p_eq, hfed.nx, ?_, hfed.bitcnt, hfed.ready, hfed.clear,
    hfed.faultLog⟩
  rw [pendingBits_of_nx hfed.nx]
  exact congrArg (List.flatMap byteBits) hfed.groups.rest

/-- The pending bytes, cell by cell (R83). -/
theorem HoldsGroups.cell {h : Digest} {bytes : List Byte} {t : State} (ht : HoldsGroups h bytes t) {k : Fin 64}
    (hk : k < t.p) : t.buf[k] = bytes.getD (64 * (bytes.length / 64) + k.val) 0 := by
  have hcell : t.pendingBytes[k.val]? = some t.buf[k] := by simp [State.pendingBytes, hk]
  rw [ht.rest, restOfGroups, List.getElem?_drop] at hcell
  rw [List.getD_eq_getElem?_getD, hcell, Option.getD_some]

/-- Settles O18: RESET leaves no byte pending, so the groups are those of the bytes fed. -/
theorem feedingArithmetic : Obligations.FeedingArithmetic := by
  intro bytes s hl
  have hreset := (Completes.reset (s := s)).performWord
  have hfits : (s.toReset.responded 0#32).lengthFits (8 * bytes.length) := by simpa [State.lengthFits] using hl
  obtain ⟨t, ht, he, hr, -, hgroups, hcnt, -⟩ :=
    (FedFrom.refl (s := s.toReset.responded 0#32) rfl rfl rfl).feedCmds hfits
  change HoldsGroups iv bytes t at hgroups
  refine ⟨t, (performWords_cons _ hreset).trans ht, he, hr, ?_, hgroups.p_eq, hgroups.digest,
    fun k hk => hgroups.cell hk⟩
  simpa using hcnt

end Sys2Proof.Machine
end

section
/-! PROOFS. RESET erases history (40_accumulator.md R79): a command reads neither the response port nor the host's
coming events, and what else a response can depend on is after RESET as at the start. -/

namespace Sys2Proof.Machine

/-! ## The response port and the host's events are not read -/

/-- The same core with other host events still to come and another response on the port. -/
def State.withPort (es : List HostEvent) (r : Option Response) (s : State) : State := { s with pending := es, rsp := r }

/-- The same answer with other host events still to come. -/
def withEvents (es : List HostEvent) : Result → Result
  | .next t => .next (t.withPort es t.rsp)
  | .fault f => .fault f
  | .refused f => .refused f

section
variable {es : List HostEvent} {r : Option Response} {s : State}

theorem unlessLatched_withPort {rest rest' : Result} (h : rest' = withEvents es rest) :
    unlessLatched (s.withPort es r) rest' = withEvents es (unlessLatched s rest) := by
  subst h
  cases he : s.err with
  | false => rw [unlessLatched_of_clear _ _ he, unlessLatched_of_clear (s.withPort es r) _ he]
  | true =>
    rw [unlessLatched_of_latched _ _ he, unlessLatched_of_latched (s.withPort es r) _ he]
    rfl

theorem requireElse_withPort {p : Prop} [Decidable p] {c : Cause} {rest rest' : Result}
    (h : rest' = withEvents es rest) :
    requireElse p c (s.withPort es r) rest' = withEvents es (requireElse p c s rest) := by
  subst h
  by_cases hp : p
  · rw [requireElse_of p _ _ _ hp, requireElse_of p _ _ _ hp]
  · rw [requireElse_of_not p _ _ _ hp, requireElse_of_not p _ _ _ hp]
    rfl

theorem respond_withPort (w : Word) : respond w (s.withPort es r) = withEvents es (respond w s) := rfl

theorem fedByte_withPort (b : Byte) : (s.withPort es r).fedByte b = (s.fedByte b).withPort es r := by
  by_cases hp : s.p = 63
  · rw [State.fedByte_last b s hp, State.fedByte_last b (s.withPort es r) hp]
    rfl
  · rw [State.fedByte_open b s hp, State.fedByte_open b (s.withPort es r) hp]
    rfl

theorem padSplit_withPort : (s.withPort es r).padSplit = s.padSplit.withPort es r := by
  unfold State.padSplit
  change (if 447 < s.padPos then _ else _) = _
  split <;> rfl

theorem padded_withPort : (s.withPort es r).padded = s.padded.withPort es r := by
  rw [State.padded, padSplit_withPort]
  rfl

theorem losePending_withPort : (s.withPort es r).losePending = s.losePending.withPort es r := rfl

theorem exec_withPort (i : Instr) : exec i (s.withPort es r) = withEvents es (exec i s) := by
  cases i with
  | reset => rfl
  | feedByte b =>
    refine unlessLatched_withPort (requireElse_withPort (requireElse_withPort ?_))
    rw [← respond_withPort (r := r), ← fedByte_withPort]
  | feedBits b n =>
    exact unlessLatched_withPort (requireElse_withPort (requireElse_withPort (requireElse_withPort rfl)))
  | finalize =>
    refine unlessLatched_withPort (requireElse_withPort ?_)
    rw [padded_withPort, losePending_withPort, respond_withPort]
  | readDigest k =>
    refine unlessLatched_withPort ?_
    cases indexOperand k with
    | none => rfl
    | some j => exact requireElse_withPort rfl

theorem performWord_withPort (w : Word) : performWord w (s.withPort es r) = withEvents es (performWord w s) := by
  unfold performWord
  cases decode w with
  | ok i => exact exec_withPort i
  | error _ => exact unlessLatched_withPort rfl

end

theorem responsesTo_withPort (ws : List Word) (es : List HostEvent) (r : Option Response) (s : State) :
    responsesTo ws (s.withPort es r) = responsesTo ws s := by
  induction ws generalizing r s with
  | nil => rfl
  | cons w ws ih =>
    obtain ⟨t, ht⟩ := performWord_total w s
    have ht' : performWord w (s.withPort es r) = .next (t.withPort es t.rsp) := by
      rw [performWord_withPort, ht]
      rfl
    rw [responsesTo_cons ws ht, responsesTo_cons ws ht', ih t.rsp t]
    rfl

/-! ## What no response reveals -/

/-- Alike states answer every command sequence alike (R16). -/
theorem Alike.responsesTo {s t : State} (h : Alike s t) (hs : s.Coherent) (ws : List Word) :
    responsesTo ws s = responsesTo ws t := by
  induction ws generalizing s t with
  | nil => rfl
  | cons w ws ih =>
    obtain ⟨u, hu⟩ := performWord_total w s
    obtain ⟨v, hv⟩ := performWord_total w t
    obtain ⟨hcounts, -⟩ := coherent_iff.mp hs
    have huv := h.performWord hcounts.ready_nx w u v hu hv
    rw [responsesTo_cons ws hu, responsesTo_cons ws hv, huv.rsp, ih huv (hs.performWord hu)]

/-! ## RESET (R79) -/

/-- After RESET a core is like one just out of the reset input with the same port, whatever their BUF, fault log and
draws hold (R36, R146). -/
theorem alike_toReset_responded (s : State) (buf : Buffer) :
    Alike (s.toReset.responded 0#32) ({ State.reset with buf := buf }.withPort s.pending (some okResponse)) where
  h := rfl
  bitcnt := rfl
  phase := rfl
  err := rfl
  errCause := rfl
  message _ := .of_empty rfl rfl rfl rfl
  pending := rfl
  rsp := rfl

theorem coherent_toReset_responded (s : State) : (s.toReset.responded 0#32).Coherent :=
  coherent_iff.mpr ⟨.of_new rfl rfl rfl rfl, .of_clear rfl rfl (by simp)⟩

/-- RESET and a sequence after it are answered as by a core just out of the reset input (R79, R146). -/
theorem responsesTo_reset (s : State) (buf : Buffer) (ws : List Word) :
    responsesTo (encode .reset :: ws) s = some okResponse :: responsesTo ws { State.reset with buf := buf } := by
  rw [responsesTo_cons ws Completes.reset.performWord,
    (alike_toReset_responded s buf).responsesTo (coherent_toReset_responded s), responsesTo_withPort]
  rfl

/-- Settles O56: the responses after RESET are those of State.reset, from any two states. -/
theorem resetErasesHistory : Obligations.ResetErasesHistory := by
  refine ⟨fun s s' ws => ?_, responsesTo_reset⟩
  exact (responsesTo_reset s zeroBuf ws).trans (responsesTo_reset s' zeroBuf ws).symm

end Sys2Proof.Machine
end

section
/-! PROOFS. FINALIZE by its rule: its blocks cell by cell, the message bits they depend on, the digest and the count of
blocks, and the padding FSM (41_padding.md R91 to R103). -/

namespace Sys2Proof.Machine

/-! ## The padding's position and bits (R93, R95, R98) -/

/-- Settles O26: NX adds at most 7 to the bits before byte P. -/
theorem splitDependsOnTheByteCount : Obligations.SplitDependsOnTheByteCount := by
  intro s
  unfold State.padPos
  omega

/-- Settles O27. -/
theorem tailByteIsMasked : Obligations.TailByteIsMasked := markByte_getMsbD

/-! ## FINALIZE's blocks by cell (R99, R100) -/

/-- Byte k of the length field, counted by its cell in BUF (R43). -/
theorem be64_getD (n : DWord) (d : Byte) {k : Nat} (h56 : 56 ≤ k) (hk : k < 64) :
    (be64 n).getD (k - 56) d = n.extractLsb' (8 * (63 - k)) 8 := by
  have hbytes : be64 n = (List.range 8).map fun i => n.extractLsb' (8 * (7 - i)) 8 := rfl
  have hlt : k - 56 < 8 := by omega
  have hsub : 7 - (k - 56) = 63 - k := by omega
  simp [hbytes, List.getD_eq_getElem?_getD, hlt, hsub]

/-- A buffer with the length field, by cell (R91). -/
theorem memWrite_length_get (n : DWord) (buf : Buffer) (k : Fin 64) :
    (memWrite 56 (be64 n) buf)[k] = if 56 ≤ k.val then n.extractLsb' (8 * (63 - k.val)) 8 else buf[k] := by
  rw [memWrite_get]
  split
  next h56 => exact be64_getD n _ h56 k.isLt
  next => rfl

/-- The marked buffer is the first of two blocks (R94, R95, R100). -/
theorem padMarked_firstBlockLayout (s : State) : FirstBlockLayout s s.padMarked.buf := by
  intro k
  rw [State.padMarked_buf, zeroAfter_get, set_get]
  obtain hlt | rfl | hgt := lt_trichotomy k s.p
  · simp [hlt, hlt.ne, hlt.not_gt]
  · simp [markByte, tailMask]
  · simp [hgt, hgt.ne', hgt.not_gt]

/-- The zero buffer with the length field is the second of two blocks (R100). -/
theorem zeroBuf_secondBlockLayout (s : State) : SecondBlockLayout s (memWrite 56 (be64 s.bitcnt) zeroBuf) := by
  intro k
  rw [memWrite_length_get, zeroBuf_get]

/-- Where the length fits, the marked buffer with the length field is the only block: P stands before cell 56 (R98,
R99). -/
theorem padMarked_oneBlockLayout {s : State} (h : s.padPos ≤ 447) :
    OneBlockLayout s (memWrite 56 (be64 s.bitcnt) s.padMarked.buf) := by
  have hp : s.p.val < 56 := not_le.mp (mt (splitDependsOnTheByteCount s).mpr (not_lt.mpr h))
  intro k
  rw [memWrite_length_get, padMarked_firstBlockLayout s k]
  by_cases hlt : k < s.p
  · have h56 : ¬ 56 ≤ k.val := by omega
    simp only [hlt, h56, if_true, if_false]
  · simp only [hlt, if_false]

/-! ## FINALIZE (R91) -/

/-- Where FINALIZE is legal its next state is the only one it answers (R91). -/
theorem eq_of_exec_finalize {s t : State} (he : s.err = false) (hf : s.phase ≠ .finalized)
    (h : exec .finalize s = .next t) : t = s.padded.losePending.responded 0#32 := by
  rw [exec_of_completes (.finalize he hf)] at h
  injection h with h
  exact h.symm

/-- In Finalized the check fails (R91). -/
theorem execFinalize_of_finalized {s : State} (he : s.err = false) (hf : s.phase = .finalized) :
    exec .finalize s = .next (s.faulted .finalizePhase) :=
  (unlessLatched_of_clear _ _ he).trans (requireElse_of_not _ _ _ _ (not_not.mpr hf))

/-- Settles O25: the blocks are `finalBlocks`, one or two of them by the position of the 1 bit. -/
theorem finalizeFollowsItsRule : Obligations.FinalizeFollowsItsRule := by
  refine ⟨rfl, fun s he => ⟨fun hf => exists_faultTaken he (execFinalize_of_finalized he hf), fun hf => ?_⟩⟩
  have hh := padded_h_eq_foldl s
  refine ⟨_, exec_of_completes (.finalize he hf), fun (hle : s.padPos ≤ 447) => ?_,
    fun (hgt : 447 < s.padPos) => ?_, ?_⟩
  · rw [finalBlocks, if_neg (not_lt.mpr hle)] at hh
    exact ⟨_, padMarked_oneBlockLayout hle, hh⟩
  · rw [finalBlocks, if_pos hgt] at hh
    exact ⟨_, _, padMarked_firstBlockLayout s, zeroBuf_secondBlockLayout s, hh⟩
  · simp [he, okResponse]

/-! ## Stale cells (R96, R97) -/

/-- FINALIZE's blocks are made of the pending message and BITCNT alone. -/
theorem SameMessage.finalBlocks_eq {s t : State} (hm : SameMessage s t) (hc : s.bitcnt = t.bitcnt) :
    finalBlocks s = finalBlocks t := by
  have hpos : s.padPos = t.padPos := by rw [State.padPos, State.padPos, hm.p, hm.nx]
  rw [finalBlocks, finalBlocks, hpos, hc, hm.padMarked_buf]

/-- Settles O28: the same H compressed with the same blocks. -/
theorem finalizeIgnoresStaleCells : Obligations.FinalizeIgnoresStaleCells := by
  intro s s' t t' he he' hf hf' hh hc hp hn hbits h h'
  obtain rfl := eq_of_exec_finalize he hf h
  obtain rfl := eq_of_exec_finalize he' hf' h'
  have hm : SameMessage s s' := ⟨hp, hn, hbits⟩
  calc s.padded.h
    _ = (finalBlocks s).foldl compress s.h := padded_h_eq_foldl s
    _ = (finalBlocks s').foldl compress s'.h := by rw [hm.finalBlocks_eq hc, hh]
    _ = s'.padded.h := (padded_h_eq_foldl s').symm

/-! ## The digest and the blocks of a message (R101, R103) -/

/-- Settles O30: without a recorded fault no fault is latched, so FINALIZE completes. -/
theorem finalizeGivesSha1 : Obligations.FinalizeGivesSha1 := by
  rintro m s hlog hf hs ⟨blocks, habs⟩
  obtain ⟨he, -, -⟩ := hs.clean hlog
  have hc : Completes .finalize s _ := .finalize he hf
  exact ⟨_, exec_of_completes hc, State.padded_phase s, habs.padded_h, hc.faultLog.trans hlog⟩

theorem finalBlocks_length (s : State) : (finalBlocks s).length = if 447 < s.padPos then 2 else 1 := by
  unfold finalBlocks
  split <;> rfl

/-- Settles O52: FINALIZE's own blocks are `finalBlocks`, and with those fed they are the padded message. -/
theorem compressionCountOfAMessage : Obligations.CompressionCountOfAMessage := by
  intro fed m s hlog hf hs habs
  obtain ⟨he, -, -⟩ := hs.clean hlog
  have ⟨_, hh, hcnt⟩ := habs
  refine ⟨_, finalBlocks s, exec_of_completes (.finalize he hf), ?_, finalBlocks_length s, ?_, habs.paddedBits_eq⟩
  · rw [List.foldl_append, ← hh]
    exact padded_h_eq_foldl s
  · simpa [hcnt] using habs.blockCount

/-! ## The padding FSM (R102) -/

/-- The FSM's run is FINALIZE up to the unspecified P, NX and BUF: six states where the block is split, else four. -/
theorem padFsm_eq (s : State) : padFsm s = s.padded.responded 0#32 := by
  by_cases hpos : 447 < s.padPos
  · simp only [padFsm, padRun, padTick, State.padded, State.padSplit, hpos, if_true]
  · simp only [padFsm, padRun, padTick, State.padded, State.padSplit, hpos, if_false]

/-- Settles O29. -/
theorem paddingFsmComputesFinalize : Obligations.PaddingFsmComputesFinalize := by
  intro s t he hf h
  obtain rfl := eq_of_exec_finalize he hf h
  simp [padFsm_eq]

end Sys2Proof.Machine
end

section
/-! PROOFS. The block compressor (42_compressor.md): the schedule's recurrence (R105, R106), the round by its group of
20 (R108 to R111), and the three layouts (R107, R118), each by what it holds before round t. -/

namespace Sys2Proof.Machine

/-! ## The message schedule (R105, R106) -/

theorem rotl_eq_rotateLeft {n : Nat} (hn : n < 32) (x : Word) : rotl n x = x.rotateLeft n := by
  rw [BitVec.rotateLeft_def, Nat.mod_eq_of_lt hn, rotl]

@[simp] theorem scheduleLoad_length (block : Buffer) : (scheduleLoad block).length = 16 := by simp [scheduleLoad]

theorem scheduleLoad_getD (block : Buffer) (t : Fin 16) : (scheduleLoad block).getD t.val 0 = blockWord block t := by
  simp [scheduleLoad]

@[simp] theorem scheduleExpand_length (n : Nat) (ws : List Word) : (scheduleExpand n ws).length = ws.length + n := by
  induction n generalizing ws with
  | zero => rfl
  | succ n ih =>
    rw [scheduleExpand, ih, List.length_append, List.length_singleton]
    omega

/-- The words already there stay. -/
theorem scheduleExpand_getD_of_lt {ws : List Word} {t : Nat} (ht : t < ws.length) (n : Nat) :
    (scheduleExpand n ws).getD t 0 = ws.getD t 0 := by
  induction n generalizing ws with
  | zero => rfl
  | succ n ih => rw [scheduleExpand, ih (by simp; omega), List.getD_append _ _ _ _ ht]

theorem scheduleExpand_getD_length (n : Nat) (ws : List Word) :
    (scheduleExpand (n + 1) ws).getD ws.length 0 = nextWord ws := by
  rw [scheduleExpand, scheduleExpand_getD_of_lt (by simp), List.getD_append_right _ _ _ _ le_rfl, Nat.sub_self]
  rfl

theorem nextWord_of_length {ws : List Word} {t : Nat} (hws : ws.length = t + 16) :
    nextWord ws = rotl 1 (ws.getD (t + 13) 0 ^^^ ws.getD (t + 8) 0 ^^^ ws.getD (t + 2) 0 ^^^ ws.getD t 0) := by
  rw [nextWord, hws]
  rfl

/-- Every word put after the first 16 follows R106. -/
theorem scheduleExpand_getD_add_sixteen {ws : List Word} {t n : Nat} (hws : 16 ≤ ws.length) (ht : ws.length ≤ t + 16)
    (ht' : t + 16 < ws.length + n) :
    (scheduleExpand n ws).getD (t + 16) 0 =
      rotl 1 ((scheduleExpand n ws).getD (t + 13) 0 ^^^ (scheduleExpand n ws).getD (t + 8) 0 ^^^
        (scheduleExpand n ws).getD (t + 2) 0 ^^^ (scheduleExpand n ws).getD t 0) := by
  induction n generalizing ws with
  | zero => omega
  | succ n ih =>
    by_cases hlast : ws.length = t + 16
    · have hkeep (i : Nat) (hi : i < t + 16) : (scheduleExpand (n + 1) ws).getD i 0 = ws.getD i 0 :=
        scheduleExpand_getD_of_lt (hlast ▸ hi) _
      rw [← hlast, scheduleExpand_getD_length, nextWord_of_length hlast, hkeep (t + 13) (by omega),
        hkeep (t + 8) (by omega), hkeep (t + 2) (by omega), hkeep t (by omega)]
    · exact ih (by simp; omega) (by simp; omega) (by simp; omega)

/-- W[t] (R105, R106). -/
def scheduleWord (block : Buffer) (t : Nat) : Word := (schedule block).getD t 0

@[simp] theorem schedule_length (block : Buffer) : (schedule block).length = 80 := by simp [schedule]

theorem scheduleWord_load (block : Buffer) (t : Fin 16) : scheduleWord block t.val = blockWord block t :=
  (scheduleExpand_getD_of_lt (by simp) 64).trans (scheduleLoad_getD block t)

/-- R106, with t counted from the oldest of the 16 words that W[t+16] comes from. -/
theorem scheduleWord_add_sixteen (block : Buffer) {t : Nat} (ht : t + 16 < 80) :
    scheduleWord block (t + 16) = rotl 1 (scheduleWord block (t + 13) ^^^ scheduleWord block (t + 8) ^^^
      scheduleWord block (t + 2) ^^^ scheduleWord block t) :=
  scheduleExpand_getD_add_sixteen (by simp) (by simp) (by simpa using ht)

/-- Settles O32: the loaded words stay, and every word put after them follows R106. -/
theorem scheduleFollowsItsRules : Obligations.ScheduleFollowsItsRules := by
  refine fun block => ⟨schedule_length block, scheduleWord_load block, fun t ht ht' => ?_⟩
  obtain ⟨i, rfl⟩ := Nat.exists_eq_add_of_le' ht
  exact (scheduleWord_add_sixteen block ht').trans (rotl_eq_rotateLeft (by decide) _)

/-! ## The round by its group of 20 (R108, R109, R111, R115) -/

theorem roundK_eq_ite {t : Nat} (ht : t < 80) : roundK t =
    if t ≤ 19 then 0x5A827999 else if t ≤ 39 then 0x6ED9EBA1 else if t ≤ 59 then 0x8F1BBCDC else 0xCA62C1D6 := by
  unfold roundK
  split_ifs
  · simp only [show t / 20 = 0 by omega]
  · simp only [show t / 20 = 1 by omega]
  · simp only [show t / 20 = 2 by omega]
  · simp only [show t / 20 = 3 by omega]

theorem roundF_eq_ite {t : Nat} (ht : t < 80) (b c d : Word) : roundF t b c d =
    if t ≤ 19 then (b &&& c) ||| ((~~~b) &&& d)
    else if 40 ≤ t ∧ t ≤ 59 then (b &&& c) ||| (b &&& d) ||| (c &&& d)
    else b ^^^ c ^^^ d := by
  unfold roundF
  split_ifs
  · simp only [show t / 20 = 0 by omega]
  · simp only [show t / 20 = 2 by omega]
  · obtain hg | hg : t / 20 = 1 ∨ t / 20 = 3 := by omega
    · simp only [hg]
    · simp only [hg]

/-- Settles O33: `roundStep` with its function and its constant by group. -/
theorem roundFollowsItsRules : Obligations.RoundFollowsItsRules := by
  intro t w x ht
  rw [roundStep, roundK_eq_ite ht, roundF_eq_ite ht, rotl_eq_rotateLeft (by decide), rotl_eq_rotateLeft (by decide)]

/-- `B AND C` and `(NOT B) AND D` share no bit, so their OR is their XOR (R115). -/
theorem selectXor_eq (b c d : Word) : selectXor b c d = (b &&& c) ||| (~~~b &&& d) := by
  ext i hi
  simp only [selectXor, BitVec.getElem_xor, BitVec.getElem_and, BitVec.getElem_not, BitVec.getElem_or]
  cases b[i] <;> simp

/-- AND distributes over OR (R115). -/
theorem majorityShort_eq (b c d : Word) : majorityShort b c d = (b &&& c) ||| (b &&& d) ||| (c &&& d) := by
  rw [majorityShort, BitVec.and_or_distrib_left, BitVec.and_comm d b, BitVec.and_comm d c, BitVec.or_assoc]

theorem roundF_eq_selectXor {t : Nat} (ht : t ≤ 19) : roundF t = selectXor := by
  funext b c d
  rw [roundF_eq_ite (by omega), if_pos ht, selectXor_eq]

theorem roundF_eq_majorityShort {t : Nat} (ht : 40 ≤ t) (ht' : t ≤ 59) : roundF t = majorityShort := by
  funext b c d
  rw [roundF_eq_ite (by omega), if_neg (by omega), if_pos ⟨ht, ht'⟩, majorityShort_eq]

theorem roundF_eq_parity3 {t : Nat} (ht : (20 ≤ t ∧ t ≤ 39) ∨ (60 ≤ t ∧ t ≤ 79)) : roundF t = parity3 := by
  funext b c d
  rw [roundF_eq_ite (by omega), if_neg (by omega), if_neg (by omega), parity3]

theorem roundStep_eq_wiredRound (t : Nat) (w : Word) (x : Working) :
    roundStep t w x = wiredRound (roundF t) (roundK t) w x := by
  have hsum : rotl 5 x.a + x.e + w + roundK t + roundF t x.b x.c x.d =
      (rotl 5 x.a + roundF t x.b x.c x.d) + (x.e + (roundK t + w)) := by ac_rfl
  rw [roundStep, hsum, wiredRound]

/-- Settles O35. -/
theorem roundFunctionFormsAgree : Obligations.RoundFunctionFormsAgree :=
  ⟨fun _ => roundF_eq_selectXor, fun _ => roundF_eq_majorityShort, fun _ => roundF_eq_parity3, roundStep_eq_wiredRound⟩

/-! ## The rounds that are left -/

/-- The rounds t..79 over the schedule (R111). -/
def roundsFrom (block : Buffer) (t : Nat) (x : Working) : Working := rounds t ((schedule block).drop t) x

theorem compress_eq_roundsFrom (h : Digest) (block : Buffer) :
    compress h block = addWorking h (roundsFrom block 0 (loadWorking h)) := rfl

@[simp] theorem roundsFrom_eighty (block : Buffer) (x : Working) : roundsFrom block 80 x = x := by
  rw [roundsFrom, List.drop_of_length_le (by simp), rounds]

theorem roundsFrom_step (block : Buffer) {t : Nat} (ht : t < 80) (x : Working) :
    roundsFrom block t x = roundsFrom block (t + 1) (roundStep t (scheduleWord block t) x) := by
  have hlen : t < (schedule block).length := by simpa using ht
  rw [roundsFrom, List.drop_eq_getElem_cons hlen, rounds, ← List.getD_eq_getElem _ 0 hlen]
  rfl

/-! ## The ITERATIVE layout (R107, R118) -/

theorem slot_eq_iff (i j : Nat) : slot i = slot j ↔ i % 16 = j % 16 := by
  simp [slot, Fin.ext_iff]

theorem slot_add_sixteen (t : Nat) : slot (t + 16) = slot t := (slot_eq_iff _ _).mpr (Nat.add_mod_right t 16)

theorem IterState.slide_of_lt {x : IterState} (hx : x.t < 16) : x.slide = x.window := if_pos hx

/-- From t = 16 on, only the slot of W[t] is replaced (R107). -/
theorem IterState.slide_get {x : IterState} {t : Nat} (hx : x.t = t + 16) (j : Fin 16) :
    x.slide.get j = if slot t = j then
        rotl 1 (x.window.get (slot (t + 13)) ^^^ x.window.get (slot (t + 8)) ^^^ x.window.get (slot (t + 2)) ^^^
          x.window.get (slot t))
      else x.window.get j := by
  simp [IterState.slide, hx, slot_add_sixteen, Vector.get_eq_getElem, Vector.getElem_set, Fin.ext_iff]

/-- What the circular window holds before round t: W[0..15], and from t = 16 on the 16 words before W[t] (R107). -/
def WindowHolds (block : Buffer) (t : Nat) (v : Vector Word 16) : Prop :=
  ∀ i : Nat, t ≤ i + 16 → i < max t 16 → v.get (slot i) = scheduleWord block i

theorem iterLoad_windowHolds (h : Digest) (block : Buffer) : WindowHolds block 0 (iterLoad h block).window := by
  intro i _ hi
  have hi : i < 16 := by simpa using hi
  have hslot : slot i = ⟨i, hi⟩ := Fin.ext (Nat.mod_eq_of_lt hi)
  rw [iterLoad, hslot, Vector.get_ofFn]
  exact (scheduleWord_load block ⟨i, hi⟩).symm

/-- The word put into the window before round t is W[t], in the place of W[t-16] (R107). -/
theorem WindowHolds.slide {block : Buffer} {x : IterState} (h : WindowHolds block x.t x.window) (ht : x.t < 80) :
    WindowHolds block (x.t + 1) x.slide := by
  intro i hi hi'
  by_cases hload : x.t < 16
  · rw [x.slide_of_lt hload]
    exact h i (by omega) (by omega)
  · obtain ⟨t, hx⟩ := Nat.exists_eq_add_of_le' (not_lt.mp hload)
    rw [hx] at h ht hi hi'
    rw [x.slide_get hx]
    split_ifs with hput <;> rw [slot_eq_iff] at hput
    · obtain rfl : i = t + 16 := by omega
      rw [h (t + 13) (by omega) (by omega), h (t + 8) (by omega) (by omega), h (t + 2) (by omega) (by omega),
        h t (by omega) (by omega)]
      exact (scheduleWord_add_sixteen block ht).symm
    · exact h i (by omega) (by omega)

theorem iterRun_work {block : Buffer} {n : Nat} {x : IterState} (hn : x.t + n = 80)
    (h : WindowHolds block x.t x.window) : (iterRun n x).work = roundsFrom block x.t x.work := by
  induction n generalizing x with
  | zero => rw [show x.t = 80 from hn, roundsFrom_eighty, iterRun]
  | succ n ih =>
    have ht : x.t < 80 := by omega
    have hslide := h.slide ht
    have htick : x.tick = ⟨x.t + 1, roundStep x.t (scheduleWord block x.t) x.work, x.slide⟩ := by
      rw [← hslide x.t (by omega) (by omega)]
      exact if_pos (decide_eq_true ht)
    rw [iterRun, htick, ih (by simp; omega) hslide, roundsFrom_step block ht]

/-- Settles O36: before round t the window holds the words that rounds t..79 come from. -/
theorem iterativeLayoutComputesCompress : Obligations.IterativeLayoutComputesCompress := by
  intro h block
  rw [compressIterative, iterRun_work rfl (iterLoad_windowHolds h block), compress_eq_roundsFrom]
  rfl

/-! ## The PIPELINED layout (R118) -/

/-- What a stage's window holds before round t: the 16 words W[t..t+15], as far as the schedule goes (R118). -/
def StageHolds (block : Buffer) (t : Nat) (ws : List Word) : Prop :=
  ws.length = 16 ∧ ∀ j < 16, t + j < 80 → ws.getD j 0 = scheduleWord block (t + j)

theorem pipeLoad_stageHolds (h : Digest) (block : Buffer) : StageHolds block 0 (pipeLoad h block).window := by
  refine ⟨scheduleLoad_length block, fun j hj _ => ?_⟩
  rw [Nat.zero_add]
  exact (scheduleLoad_getD block ⟨j, hj⟩).trans (scheduleWord_load block ⟨j, hj⟩).symm

/-- The stage's new last word is W[t+16] (R106). -/
theorem StageHolds.advance {block : Buffer} {t : Nat} {x : Stage} (h : StageHolds block t x.window) :
    StageHolds block (t + 1) (x.advance t).window := by
  obtain ⟨hlen, hword⟩ := h
  have hdrop : (x.window.drop 1).length = 15 := by simp [hlen]
  refine ⟨by simp [Stage.advance, hlen], fun j hj ht => ?_⟩
  rw [Stage.advance]
  rcases Nat.lt_or_eq_of_le (Nat.le_of_lt_succ hj) with hj | rfl
  · rw [List.getD_append _ _ _ _ (hdrop ▸ hj), List.getD_eq_getElem?_getD, List.getElem?_drop,
      ← List.getD_eq_getElem?_getD, hword (1 + j) (by omega) (by omega), Nat.add_assoc]
  · rw [List.getD_append_right _ _ _ _ hdrop.le, hdrop, hword 13 (by decide) (by omega), hword 8 (by decide) (by omega),
      hword 2 (by decide) (by omega), hword 0 (by decide) (by omega)]
    exact (scheduleWord_add_sixteen block ht).symm

theorem StageHolds.advance_work {block : Buffer} {t : Nat} {x : Stage} (h : StageHolds block t x.window) (ht : t < 80) :
    (x.advance t).work = roundStep t (scheduleWord block t) x.work := by
  rw [Stage.advance, h.2 0 (by decide) ht, Nat.add_zero]

/-- A pipeline whose one block in flight has k empty stages before it and m after it (R118). -/
def blockAt (k : Nat) (x : Stage) (m : Nat) : Pipe := List.replicate k none ++ some x :: List.replicate m none

theorem blockAt_succ (k : Nat) (x : Stage) (m : Nat) : blockAt (k + 1) x m = none :: blockAt k x m := rfl

theorem pipeTickFrom_empty (t m : Nat) : pipeTickFrom t none (List.replicate m none) = List.replicate m none := by
  induction m generalizing t with
  | zero => rfl
  | succ m ih => rw [List.replicate_succ, pipeTickFrom, ih, Option.map_none]

/-- A block enters the empty pipeline. -/
theorem pipeTick_emptyPipe (x : Stage) : pipeTick (some x) emptyPipe = blockAt 0 (x.advance 0) 79 := by
  rw [pipeTick, emptyPipe, List.replicate_succ, pipeTickFrom, pipeTickFrom_empty]
  rfl

/-- The block moves on by one stage. -/
theorem pipeTickFrom_blockAt (t k : Nat) (x : Stage) (m : Nat) :
    pipeTickFrom t none (blockAt k x (m + 1)) = blockAt (k + 1) (x.advance (t + k + 1)) m := by
  induction k generalizing t with
  | zero =>
    simp [blockAt, pipeTickFrom, List.replicate_succ, pipeTickFrom_empty]
  | succ k ih =>
    rw [blockAt_succ, pipeTickFrom, ih, blockAt_succ (k + 1), Option.map_none, Nat.add_right_comm t 1 k]
    rfl

/-- A block that has passed round k, drained: the last stage holds it with its remaining rounds done. -/
theorem pipeDrain_blockAt {block : Buffer} {k m : Nat} {x : Stage} (hkm : k + m = 79)
    (h : StageHolds block (k + 1) x.window) :
    ∃ y, (pipeDrain m (blockAt k x m)).getLast? = some (some y) ∧ y.work = roundsFrom block (k + 1) x.work := by
  induction m generalizing k x with
  | zero =>
    obtain rfl : k = 79 := hkm
    exact ⟨x, by simp [pipeDrain, blockAt], (roundsFrom_eighty block x.work).symm⟩
  | succ m ih =>
    rw [pipeDrain, pipeTick, pipeTickFrom_blockAt, Nat.zero_add, roundsFrom_step block (by omega),
      ← h.advance_work (by omega)]
    exact ih (by omega) h.advance

/-- Settles O37: before round t the one block in flight has in its window the words that rounds t..79 come from. -/
theorem pipelinedLayoutComputesCompress : Obligations.PipelinedLayoutComputesCompress := by
  intro h block
  have hload := pipeLoad_stageHolds h block
  obtain ⟨y, hy, hwork⟩ := pipeDrain_blockAt (m := 79) rfl hload.advance
  rw [hload.advance_work (by decide), ← roundsFrom_step block (by decide)] at hwork
  rw [compressPipelined, pipeTick_emptyPipe, hy]
  exact congrArg (addWorking h) hwork

/-! ## The UNROLLED layout (R110, R115, R118) -/

/-- The first n rounds, then the others (R110). -/
theorem rounds_split (n t : Nat) {ws : List Word} (hn : n ≤ ws.length) (x : Working) :
    rounds t ws x = rounds (t + n) (ws.drop n) (rounds t (ws.take n) x) := by
  induction n generalizing t ws x with
  | zero => rfl
  | succ n ih =>
    obtain ⟨w, ws, rfl⟩ := List.exists_cons_of_length_pos (Nat.zero_lt_of_lt hn)
    rw [rounds, ih (t + 1) (Nat.le_of_succ_le_succ hn), Nat.add_right_comm]
    rfl

/-- The n rounds from t on have one function and one constant (R110). -/
def OneGroup (f : Word → Word → Word → Word) (k : Word) (t n : Nat) : Prop :=
  ∀ i, t ≤ i → i < t + n → roundF i = f ∧ roundK i = k

theorem firstGroup : OneGroup selectXor 0x5A827999 0 20 := fun i _ hi =>
  ⟨roundF_eq_selectXor (by omega), by rw [roundK_eq_ite (by omega), if_pos (by omega)]⟩

theorem secondGroup : OneGroup parity3 0x6ED9EBA1 20 20 := fun i hi hi' =>
  ⟨roundF_eq_parity3 (by omega), by rw [roundK_eq_ite (by omega), if_neg (by omega), if_pos (by omega)]⟩

theorem thirdGroup : OneGroup majorityShort 0x8F1BBCDC 40 20 := fun i hi hi' =>
  ⟨roundF_eq_majorityShort (by omega) (by omega),
    by rw [roundK_eq_ite (by omega), if_neg (by omega), if_neg (by omega), if_pos (by omega)]⟩

theorem fourthGroup : OneGroup parity3 0xCA62C1D6 60 20 := fun i hi hi' =>
  ⟨roundF_eq_parity3 (by omega),
    by rw [roundK_eq_ite (by omega), if_neg (by omega), if_neg (by omega), if_neg (by omega)]⟩

theorem rounds_eq_wiredGroup {f : Word → Word → Word → Word} {k : Word} {t : Nat} {ws : List Word}
    (h : OneGroup f k t ws.length) (x : Working) : rounds t ws x = wiredGroup f k ws x := by
  induction ws generalizing t x with
  | nil => rfl
  | cons w ws ih =>
    rw [List.length_cons] at h
    obtain ⟨hf, hk⟩ := h t le_rfl (by omega)
    rw [rounds, wiredGroup, roundStep_eq_wiredRound, hf, hk, ih fun i hi hi' => h i (by omega) (by omega)]

theorem roundsFrom_group {f : Word → Word → Word → Word} {k : Word} {t : Nat} (ht : t + 20 ≤ 80)
    (h : OneGroup f k t 20) (block : Buffer) (x : Working) :
    roundsFrom block t x = roundsFrom block (t + 20) (wiredGroup f k (((schedule block).drop t).take 20) x) := by
  have hlen : 20 ≤ ((schedule block).drop t).length := by simp; omega
  have hgroup : OneGroup f k t (((schedule block).drop t).take 20).length := by rwa [List.length_take_of_le hlen]
  rw [roundsFrom, rounds_split 20 t hlen, rounds_eq_wiredGroup hgroup, List.drop_drop]
  rfl

/-- Settles O38: the 80 rounds are four groups, each wired with its group's function and constant. -/
theorem unrolledLayoutComputesCompress : Obligations.UnrolledLayoutComputesCompress := by
  intro h block
  rw [compress_eq_roundsFrom, roundsFrom_group (by decide) firstGroup, roundsFrom_group (by decide) secondGroup,
    roundsFrom_group (by decide) thirdGroup, roundsFrom_group (by decide) fourthGroup, roundsFrom_eighty]
  rfl

/-! ## The source's single-block vector (R117) -/

/-- The padded "abc" block (R117). -/
def abcBlock : Buffer := #v[0x61#8, 0x62#8, 0x63#8, 0x80#8] ++ Vector.replicate 59 0x00#8 ++ #v[0x18#8]

theorem abcBlock_get : ∀ k : Fin 64, abcBlock[k] =
    if k.val = 0 then 0x61#8 else if k.val = 1 then 0x62#8 else if k.val = 2 then 0x63#8
      else if k.val = 3 then 0x80#8 else if k.val = 63 then 0x18#8 else 0x00#8 := by decide

/-- The kernel runs the 80 rounds. -/
theorem compress_iv_abcBlock : compress iv abcBlock =
    #v[0xA9993E36, 0x4706816A, 0xBA3E2571, 0x7850C26C, 0x9CD0D89D] := by decide +kernel

/-- Settles O34. -/
theorem compressOfTheAbcBlock : Obligations.CompressOfTheAbcBlock := by
  intro block hblock
  obtain rfl : block = abcBlock := Vector.ext fun k hk => (hblock ⟨k, hk⟩).trans (abcBlock_get ⟨k, hk⟩).symm
  exact compress_iv_abcBlock

end Sys2Proof.Machine
end

section
/-! PROOFS. Faults (60_exceptions.md R121 to R128): what a fault leaves, which cause a command raises and in which order,
the ways out of the latch; and the steps with no command, idling and power-up (70_reset_and_hazards.md R139, R143). -/

namespace Sys2Proof.Machine

/-! ## What a fault leaves (R124) -/

/-- A fault answers the cause it reports (R124). -/
theorem FaultTaken.rsp {c : Cause} {s t : State} (h : FaultTaken c s t) : t.rsp = some (faultResponse c) := by
  obtain ⟨-, -, hrsp, -⟩ := h
  exact hrsp

/-- The cause a fault reports is not replaced by reporting it (R124). -/
@[simp] theorem reported_reported (c : Cause) (s : State) : s.reported (s.reported c) = s.reported c := by
  cases he : s.err with
  | false => exact reported_of_clear _ s he
  | true => rw [reported_of_latched _ s he, reported_of_latched _ s he]

/-- Every fault is taken with the cause it reports (R124). -/
theorem Faults.faultTaken {s t : State} (h : Faults s t) : ∃ c, FaultTaken (s.reported c) s t := by
  obtain ⟨c, -, rfl⟩ := h
  exact ⟨c, faulted_faultTaken c s⟩

/-- Settles O39. -/
theorem latchedCoreRejectsAllButReset : Obligations.LatchedCoreRejectsAllButReset :=
  fun _ s he hw => ⟨_, performWord_of_latched he hw, faultTaken_of_reported (reported_of_latched _ s he)⟩

/-- Settles O40: a command that completes answers OK, and a fault reports what the latch holds. -/
theorem faultsArePrecise : Obligations.FaultsArePrecise := by
  intro w s t r h hr hfault
  change FaultTaken (s.reported r.cause) s t
  obtain ⟨i, -, hi⟩ | hf := performWord_completes_or_faults h
  · obtain ⟨v, hv⟩ := hi.rsp
    cases hr.symm.trans hv
    cases hfault
  · obtain ⟨c, hc⟩ := hf.faultTaken
    cases hr.symm.trans hc.rsp
    simpa [faultResponse] using hc

/-! ## The causes of a command (R122) -/

/-- A command that completes meets no condition of its row (R122). -/
theorem Completes.not_faultCondition {i : Instr} {s t : State} (h : Completes i s t) (c : Cause) :
    ¬ FaultCondition i c s := by
  cases h with
  | reset => exact id
  | feedByte _ hr hl =>
    cases c with
    | feedPhase => exact not_not.mpr hr
    | lengthOverflow => exact not_lt.mpr hl
    | _ => exact id
  | feedBits _ hr hn hl =>
    cases c with
    | bitsPhase => exact not_not.mpr hr
    | bitsRange => exact hn
    | lengthOverflow => exact not_lt.mpr hl
    | _ => exact id
  | finalize _ hp =>
    cases c with
    | finalizePhase => exact hp
    | _ => exact id
  | readDigest _ hp =>
    cases c with
    | digestPhase => exact not_not.mpr hp
    | _ => exact id

/-- With ERR = 0 a well-formed command completes, or takes the fault of a cause whose condition holds (R122). -/
theorem exec_completes_or_faultCondition {i : Instr} {s : State} (hi : i.wellFormed = true) (he : s.err = false) :
    (∃ t, Completes i s t) ∨ ∃ c, FaultCondition i c s ∧ exec i s = .next (s.faulted c) := by
  obtain ⟨t, h⟩ := exec_total i s
  cases i with
  | reset => exact .inl ⟨_, .reset⟩
  | feedByte b =>
    obtain ⟨hlatched, -⟩ | ⟨-, hp, rfl⟩ | ⟨-, -, hl, rfl⟩ | ⟨-, hp, hl, -⟩ := execFeedByte_cases h
    · simp [he] at hlatched
    · exact .inr ⟨.feedPhase, hp, h⟩
    · exact .inr ⟨.lengthOverflow, not_le.mp hl, h⟩
    · exact .inl ⟨_, .feedByte he hp hl⟩
  | feedBits b n =>
    obtain ⟨hlatched, -⟩ | ⟨-, hp, rfl⟩ | ⟨-, -, hn, rfl⟩ | ⟨-, -, -, hl, rfl⟩ | ⟨-, hp, hn, hl, -⟩ :=
      execFeedBits_cases h
    · simp [he] at hlatched
    · exact .inr ⟨.bitsPhase, hp, h⟩
    · exact .inr ⟨.bitsRange, hn, h⟩
    · exact .inr ⟨.lengthOverflow, not_le.mp hl, h⟩
    · exact .inl ⟨_, .feedBits he hp hn hl⟩
  | finalize =>
    by_cases hp : s.phase = .finalized
    · exact .inr ⟨.finalizePhase, hp, execFinalize_of_finalized he hp⟩
    · exact .inl ⟨_, .finalize he hp⟩
  | readDigest k =>
    have hk : k ≤ 4#3 := of_decide_eq_true hi
    by_cases hp : s.phase = .finalized
    · obtain ⟨j, hj, -⟩ := indexOperand_of_le k hk
      exact .inl ⟨_, .readDigest he hp hj⟩
    · exact .inr ⟨.digestPhase, hp, execReadDigest_of_not_finalized he hp hk⟩

/-- Settles O41. -/
theorem causesFollowTheTable : Obligations.CausesFollowTheTable := by
  intro i s hi he
  obtain ⟨t, ht⟩ | ⟨c, hc, h⟩ := exec_completes_or_faultCondition hi he
  · obtain ⟨v, hv⟩ := ht.rsp
    exact .inr ⟨ht.not_faultCondition, t, _, exec_of_completes ht, hv, rfl, rfl, ht.err⟩
  · obtain ⟨t, ht, hf⟩ := exists_faultTaken he h
    exact .inl ⟨t, c, ht, hc, hf⟩

/-! ## The order of the causes (R125) -/

/-- An ILLEGAL word takes ILLEGAL_COMMAND while ERR = 0 (R67, R125). -/
theorem performWord_of_illegal {w : Word} {s : State} {r : Illegal} (he : s.err = false) (hd : decode w = .error r) :
    performWord w s = .next (s.faulted .illegalCommand) := by
  simp [performWord, hd, illegalWord_eq, he]

/-- With ERR = 0 the cause raised is the cause answered (R124). -/
theorem exists_rsp_of_faulted {r : Result} {c : Cause} {s : State} (he : s.err = false)
    (h : r = .next (s.faulted c)) : ∃ t, r = .next t ∧ t.rsp = some (faultResponse c) := by
  obtain ⟨t, ht, hf⟩ := exists_faultTaken he h
  exact ⟨t, ht, hf.rsp⟩

/-- Settles O42: each check fails before the later ones are made. -/
theorem faultPriority : Obligations.FaultPriority := by
  refine ⟨fun w s he hw => ?_, fun w s r he hd => ?_, fun b s he hr => ?_, fun b n s he hr => ?_, fun b s he hr => ?_,
    fun s he hf => ?_, fun k s he hk hf => ?_, fun b s he hr hl => ?_, fun b n s he hr hn hl => ?_⟩
  · obtain ⟨t, ht, hf⟩ := latchedCoreRejectsAllButReset w s he hw
    exact ⟨t, ht, hf.rsp⟩
  · exact exists_rsp_of_faulted he (performWord_of_illegal he hd)
  · exact exists_rsp_of_faulted he (execFeedByte_of_not_ready he b hr)
  · exact exists_rsp_of_faulted he (execFeedBits_of_not_ready he b n hr)
  · exact exists_rsp_of_faulted he (execFeedBits_of_zero he b hr)
  · exact exists_rsp_of_faulted he (execFinalize_of_finalized he hf)
  · exact exists_rsp_of_faulted he (execReadDigest_of_not_finalized he hf hk)
  · exact exists_rsp_of_faulted he (execFeedByte_of_overflow he b hr (not_le.mpr hl))
  · exact exists_rsp_of_faulted he (execFeedBits_of_overflow he b hr hn (not_le.mpr hl))

/-! ## The way out of a fault (R127) -/

/-- While ERR = 1 only RESET completes (R126). -/
theorem Completes.eq_reset_of_latched {i : Instr} {s t : State} (h : Completes i s t) (he : s.err = true) :
    i = .reset ∧ t = s.toReset.responded 0#32 := by
  cases h with
  | reset => exact ⟨rfl, rfl⟩
  | feedByte hclear | feedBits hclear | finalize hclear | readDigest hclear => simp [hclear] at he

/-- A command word that clears ERR is RESET's (R127). -/
theorem performWord_clears_err {w : Word} {s t : State} (h : performWord w s = .next t) (hs : s.err = true)
    (ht : t.err = false) : w = encode .reset ∧ t = s.toReset.responded 0#32 := by
  obtain ⟨i, hd, hi⟩ | ⟨c, -, rfl⟩ := performWord_completes_or_faults h
  · obtain ⟨rfl, hreset⟩ := hi.eq_reset_of_latched hs
    obtain ⟨-, hw⟩ := encodeOfDecodeIsTheWord w .reset hd
    exact ⟨hw.symm, hreset⟩
  · cases ht

/-- Settles O43: idling keeps ERR, of the command words only RESET's clears it, and every reset writes the same values. -/
theorem onlyResetLeavesAFault : Obligations.OnlyResetLeavesAFault := by
  intro s t hs h ht
  obtain ⟨-, rfl⟩ | ⟨e, rest, hp, ⟨w, rfl, hw⟩ | ⟨he, rfl⟩ | ⟨he, rfl⟩⟩ := step_cases h
  · simp [hs] at ht
  · obtain ⟨rfl, rfl⟩ := performWord_clears_err hw hs ht
    exact ⟨⟨_, rest, hp, .inl rfl⟩, rfl, rfl, rfl, rfl, rfl, rfl⟩
  · exact ⟨⟨e, rest, hp, .inr (he.imp_right .inl)⟩, rfl, rfl, rfl, rfl, rfl, rfl⟩
  · exact ⟨⟨e, rest, hp, .inr (.inr (.inr he))⟩, rfl, rfl, rfl, rfl, rfl, rfl⟩

/-! ## No command: idling and power-up (R139, R143) -/

/-- Settles O9. -/
theorem idleCoreKeepsItsState : Obligations.IdleCoreKeepsItsState := by
  intro s hp
  simp [step, nextEvent, hp]

/-- Settles O12: power-up is the reset input with BUF lost, and neither writes the fault log. -/
theorem powerUpIsTreatedAsReset : Obligations.PowerUpIsTreatedAsReset :=
  fun _ _ hp => ⟨_, step_of_pending hp, rfl, rfl, rfl, rfl, rfl, rfl, rfl, rfl, rfl, rfl⟩

/-! ## The cause codes (R121) -/

theorem Cause.code_lt (c : Cause) : c.code < 0x8#4 := by cases c <;> decide

/-- Settles O47: a command leaves the latch coherent, and a coherent latch answers a fault with its cause. -/
theorem causeCodes : Obligations.CauseCodes := by
  refine ⟨rfl, rfl, rfl, rfl, rfl, rfl, rfl, rfl, Cause.code_lt, fun w s t r hs h hr hfault => ?_⟩
  obtain ⟨-, hlatch⟩ := coherent_iff.mp (hs.performWord h)
  obtain ⟨-, hcause⟩ := hlatch.rsp r hr
  exact hcause.mp hfault

end Sys2Proof.Machine
end

section
/-! PROOFS. The reset input, alone, with a command word and during a command (70_reset_and_hazards.md R141, R142), and
the answer to every command word (R156). -/

namespace Sys2Proof.Machine

/-! ## The reset input (R141, R142) -/

/-- Settles O10: with a command word or without, the event is `resetByInput`, and the word is not decoded. -/
theorem resetInputHasTheEffectOfReset : Obligations.ResetInputHasTheEffectOfReset := by
  rintro s w rest (hp | hp)
  · exact step_of_pending hp
  · exact step_of_pending hp

/-- Settles O11: abandoning a command leaves the same state as power-up, which never saw the command. -/
theorem resetDuringACommandAbandonsIt : Obligations.ResetDuringACommandAbandonsIt := by
  intro s w rest hp
  have hstep : step s = step { s with pending := .powerUp :: rest } := step_of_pending hp
  rw [hstep]
  exact powerUpIsTreatedAsReset _ rest rfl

/-! ## Every command is answered (R156) -/

/-- A command word leaves a response: the command's own, or the fault's (R57, R124). -/
theorem performWord_responds {w : Word} {s t : State} (h : performWord w s = .next t) : ∃ r, t.rsp = some r := by
  obtain ⟨i, -, hi⟩ | hf := performWord_completes_or_faults h
  · obtain ⟨v, hv⟩ := hi.rsp
    exact ⟨_, hv⟩
  · obtain ⟨c, hc⟩ := hf.faultTaken
    exact ⟨_, hc.rsp⟩

/-- Settles O45: every word has a next state, and that state holds its response. -/
theorem everyCommandIsAnswered : Obligations.EveryCommandIsAnswered := by
  intro w s
  obtain ⟨t, ht⟩ := performWord_total w s
  obtain ⟨r, hr⟩ := performWord_responds ht
  exact ⟨t, r, ht, hr⟩

end Sys2Proof.Machine
end
